-- ==== Sys2Proof/Word.lean ====
section
/-!
DEFINITION. The codec's word types (00_scope.md R10, 10_state.md R32): bytes, nibbles and the 16-byte frame.
Bit-field helpers stand in Machine/Fields.lean.
-/

namespace Sys2Proof

/-- One 8-bit byte: a byte of a frame, or the operation-select word `OP` (R32, R44). -/
abbrev Byte := BitVec 8

/-- One 4-bit nibble: half of a byte (R10). -/
abbrev Nibble := BitVec 4

/-- A frame as a value on a port: exactly 16 bytes, index 0 to 15 (R32). -/
abbrev Frame := Vector Byte 16

/-- One section's bytes: the operand of EMIT_BITS and the result of CONSUME_BITS (R190, R198). -/
abbrev Section8 := Vector Byte 8

end Sys2Proof
end

