-- ==== Sys2Proof/Machine/Fields.lean ====
section
/-!
DEFINITION. Bit fields of a byte (00_scope.md R10, 20_memory.md R63): the two nibbles and their join.
-/

namespace Sys2Proof

/-- The high nibble, bits 7:4 (R10). -/
def hi4 (b : Byte) : Nibble := b.extractLsb' 4 4

/-- The low nibble, bits 3:0 (R10). -/
def lo4 (b : Byte) : Nibble := b.extractLsb' 0 4

/-- `(h << 4) | l`: the only concatenation of the spec (R10). -/
def join4 (h l : Nibble) : Byte := h ++ l

end Sys2Proof
end

