-- ==== Sys2Proof/Config.lean ====
section
/-!
DEFINITION. The codec's fixed parameters (00_scope.md R8). The one OPEN parameter, `tol_match`, is a configuration
input of the machine: it stands in Machine/State.lean as data (log entry 3), and every statement quantifies over it.
-/

namespace Sys2Proof.Config

/-- HEADER_BYTE: byte 0 of every frame (R8, R93). -/
def headerByte : Byte := 0x16

/-- TEMP_C_MIN and TEMP_C_MAX, in degrees Celsius (R8, R140). -/
def tempCMin : Int := 16
def tempCMax : Int := 30

/-- TEMP_F_MIN and TEMP_F_MAX, in degrees Fahrenheit (R8, R141). -/
def tempFMin : Int := 60
def tempFMax : Int := 86

/-- CARRIER_HZ: the carrier frequency of the whole train (R8, R106). -/
def carrierHz : Nat := 38000

/-- The section-1 header: mark, then space, in microseconds (R8, R104 element 0). -/
def hdr1Mark : Nat := 4600
def hdr1Space : Nat := 2600

/-- A data bit: its mark, and its space for a 1 and for a 0 (R8, R103). -/
def bitMark : Nat := 340
def oneSpace : Nat := 1000
def zeroSpace : Nat := 400

/-- The footer of either section (R8, R104 elements 2 and 6). -/
def ftrMark : Nat := 340
def ftrSpace : Nat := 20600

/-- The inter-section marker (R8, R104 element 3). -/
def ismMark : Nat := 4600
def ismSpace : Nat := 6700

/-- The section-2 header (R8, R104 element 4). -/
def hdr2Mark : Nat := 9300
def hdr2Space : Nat := 5000

/-- The final mark (R8, R104 element 7). -/
def finalMark : Nat := 4600

/-- TRAIN_PULSES (R8, R104). -/
def trainPulses : Nat := 267

/-- The durations of the table of R8, each once: what law TL1 ranges over (R9). -/
def durations : List Nat := [4600, 2600, 340, 1000, 400, 20600, 6700, 9300, 5000]

end Sys2Proof.Config
end

