-- ==== Sys2Proof/Syntax.lean ====
section
/-!
DEFINITION. The operations (30_encoding.md R90, R91) and the types of their operands and results
(10_state.md R33-R36, R47; 30_encoding.md R107). `OP` carries no operand: operands and results travel on typed
ports, so the constructors of `Instr` have no arguments and the ports are the structure `Inputs`.
-/

namespace Sys2Proof

/-- The 26 operations, one constructor per row of spec/opcode_table.json, in the table's order (R91). -/
inductive Instr where
  | build | parse | validate | encode | decode
  | bcdEnc | bcdDec | fanEnc | fanDec | modeEnc | modeDec | powerEnc | powerDec
  | tempcEnc | tempfEnc | clockEnc | presetEnc | presetDec | cksum1 | cksum2
  | emitBits | expectMark | expectSpace | expectPair | decodeBit | consumeBits
  deriving DecidableEq, Repr

/-- The thermostat's mode (R33). -/
inductive Mode where
  | off | cool | heat | dry | fanOnly | heatCool
  deriving DecidableEq, Repr

/-- The fan speed (R33). -/
inductive Fan where
  | auto | low | medium | high
  deriving DecidableEq, Repr

/-- The preset: one field, so eco and sleep cannot both be requested (R33). -/
inductive Preset where
  | none | eco | sleep
  deriving DecidableEq, Repr

/-- The commanded power (R47, R136). -/
inductive Power where
  | on | off
  deriving DecidableEq, Repr

/-- Carrier on or carrier off (R35). -/
inductive Level where
  | mark | space
  deriving DecidableEq, Repr

/-- A pulse: a level and a natural number of microseconds (R35). -/
structure Pulse where
  level : Level
  dur   : Nat
  deriving DecidableEq, Repr

/-- A rational number as the interface carries it: numerator and denominator (R107). It names the rational
`num / den` when `den > 0`. -/
structure Ratio where
  num : Int
  den : Int
  deriving DecidableEq, Repr

/-- What the target_c port can carry: a pair (R107), or a value that is not finite, which names no rational
(R33, R242). -/
inductive TempPort where
  | pair (q : Ratio)
  | nonFinite
  deriving DecidableEq, Repr

/-- The time port: a valid flag and three unsigned bytes (R107). -/
structure TimePort where
  valid : Bool
  h     : Byte
  m     : Byte
  s     : Byte
  deriving DecidableEq, Repr

/-- A time of day: hour, minute, second (R34). -/
structure Clock where
  h : Nat
  m : Nat
  s : Nat
  deriving DecidableEq, Repr

/-- The thermostat state operand of BUILD, typed (R33). Power is no field of it: BUILD derives it from the mode. -/
structure Thermo where
  mode    : Mode
  fan     : Fan
  targetC : Ratio
  preset  : Preset
  deriving DecidableEq, Repr

/-- The decoded state that PARSE returns (R47). -/
structure Decoded where
  power   : Power
  mode    : Mode
  fan     : Fan
  targetC : Nat
  preset  : Preset
  deriving DecidableEq, Repr

/-- The operand ports (R90, R107), at the bit level where the interface has codes. Which operation reads which port
is said at each port; operations that take the same kind of operand read the same port (log entry 8). -/
structure Inputs where
  /-- BUILD and MODE_ENC: the interface code of the mode. -/
  mode     : BitVec 3
  /-- BUILD and FAN_ENC: the interface code of the fan speed. -/
  fan      : BitVec 2
  /-- BUILD and PRESET_ENC: the interface code of the preset. -/
  preset   : BitVec 2
  /-- BUILD, TEMPC_ENC and TEMPF_ENC: the target temperature in degrees Celsius. -/
  targetC  : TempPort
  /-- POWER_ENC: the interface code of the power. -/
  power    : BitVec 1
  /-- BUILD and CLOCK_ENC: the time. -/
  time     : TimePort
  /-- PARSE, VALIDATE, ENCODE, CKSUM1 and CKSUM2: the frame. -/
  frame    : Frame
  /-- BCD_ENC: the value. -/
  value    : Nat
  /-- BCD_DEC and POWER_DEC: the byte. -/
  byte     : Byte
  /-- FAN_DEC and MODE_DEC: the nibble. -/
  nibble   : Nibble
  /-- PRESET_DEC: frame byte 7. -/
  byte7    : Byte
  /-- PRESET_DEC: frame byte 12. -/
  byte12   : Byte
  /-- EMIT_BITS: the eight bytes. -/
  bytes    : Section8
  /-- EXPECT_MARK's D and EXPECT_PAIR's M, in microseconds. -/
  markDur  : Nat
  /-- EXPECT_SPACE's D and EXPECT_PAIR's S, in microseconds. -/
  spaceDur : Nat
  /-- DECODE, the expect checks, DECODE_BIT and CONSUME_BITS: the captured pulse list `PT_IN` (R36). -/
  ptIn     : List Pulse
  /-- The expect checks, DECODE_BIT and CONSUME_BITS: the cursor the caller supplies (R46). -/
  cur      : Nat
  deriving DecidableEq, Repr

end Sys2Proof
end

