-- ==== Sys2Proof/WellFormed.lean ====
section
/-!
DEFINITION. Well-formedness: which words are legal values of `OP` (30_encoding.md R92, written from its list of
illegal ranges, not from the table of R91), and which operands lie in an operation's domain (R107, 60_exceptions.md
R242, 41_frame_builder_parser.md R130). An operand outside the domain is what raises FAULT(BAD_OPERAND).
-/

namespace Sys2Proof

/-- `w` is in none of R92's ranges of illegal values: 0x00, 0x06-0x0F, 0x1F, 0x26-0xFF. -/
def legalOp (w : Byte) : Bool :=
  let n := w.toNat
  !(n == 0x00 || (0x06 ≤ n && n ≤ 0x0F) || n == 0x1F || 0x26 ≤ n)

/-- The mode port holds a code with a meaning: 6 and 7 have none (R107). -/
def Inputs.modeWf (x : Inputs) : Bool := x.mode.toNat < 6

/-- The preset port holds a code with a meaning: 3 has none (R107). -/
def Inputs.presetWf (x : Inputs) : Bool := x.preset.toNat < 3

/-- The target_c port holds a finite rational: a pair whose denominator is positive (R33, R107). -/
def Inputs.tempWf (x : Inputs) : Bool :=
  match x.targetC with
  | .pair q => decide (0 < q.den)
  | .nonFinite => false

/-- The BCD_ENC value is at most 99 (R130). -/
def Inputs.valueWf (x : Inputs) : Bool := x.value ≤ 99

/-- The operands that `i` reads lie in its domain. Every port not named here admits all its values. -/
def Inputs.wf (i : Instr) (x : Inputs) : Bool :=
  match i with
  | .build => x.modeWf && x.presetWf && x.tempWf
  | .bcdEnc => x.valueWf
  | .modeEnc => x.modeWf
  | .tempcEnc => x.tempWf
  | .tempfEnc => x.tempWf
  | .presetEnc => x.presetWf
  | .parse => true
  | .validate => true
  | .encode => true
  | .decode => true
  | .bcdDec => true
  | .fanEnc => true
  | .fanDec => true
  | .modeDec => true
  | .powerEnc => true
  | .powerDec => true
  | .clockEnc => true
  | .presetDec => true
  | .cksum1 => true
  | .cksum2 => true
  | .emitBits => true
  | .expectMark => true
  | .expectSpace => true
  | .expectPair => true
  | .decodeBit => true
  | .consumeBits => true

end Sys2Proof
end

