-- ==== Sys2Proof/Decode.lean ====
section
/-!
DEFINITION. The operation-select word (30_encoding.md R90-R92): the decoder, an exact match on all 8 bits read as group
(bits 7:4) and function (bits 3:0); the encoder, written from the table of R91; and the host's view of the decoder.
-/

namespace Sys2Proof

/-- Why a word is no operation: it is an illegal value of `OP` (R92). -/
inductive DecodeError where
  | illegalOp (w : Byte)
  deriving DecidableEq, Repr

/-- Group 0x0: the top-level operations, by function (R90, R91). -/
def decodeTop (f : Nat) : Option Instr :=
  match f with
  | 0x1 => some .build
  | 0x2 => some .parse
  | 0x3 => some .validate
  | 0x4 => some .encode
  | 0x5 => some .decode
  | _ => none

/-- Group 0x1: the frame-field sub-operations, by function (R90, R91). -/
def decodeField (f : Nat) : Option Instr :=
  match f with
  | 0x0 => some .bcdEnc
  | 0x1 => some .bcdDec
  | 0x2 => some .fanEnc
  | 0x3 => some .fanDec
  | 0x4 => some .modeEnc
  | 0x5 => some .modeDec
  | 0x6 => some .powerEnc
  | 0x7 => some .powerDec
  | 0x8 => some .tempcEnc
  | 0x9 => some .tempfEnc
  | 0xA => some .clockEnc
  | 0xB => some .presetEnc
  | 0xC => some .presetDec
  | 0xD => some .cksum1
  | 0xE => some .cksum2
  | _ => none

/-- Group 0x2: the pulse sub-operations, by function (R90, R91). -/
def decodePulse (f : Nat) : Option Instr :=
  match f with
  | 0x0 => some .emitBits
  | 0x1 => some .expectMark
  | 0x2 => some .expectSpace
  | 0x3 => some .expectPair
  | 0x4 => some .decodeBit
  | 0x5 => some .consumeBits
  | _ => none

/-- The operation of the group and function of `w`, if there is one (R90). -/
def decodeGroup (w : Byte) : Option Instr :=
  match (hi4 w).toNat with
  | 0x0 => decodeTop (lo4 w).toNat
  | 0x1 => decodeField (lo4 w).toNat
  | 0x2 => decodePulse (lo4 w).toNat
  | _ => none

/-- The decoder: total on every word, and an illegal word is refused by name (R90, R92). -/
def decode (w : Byte) : Except DecodeError Instr :=
  match decodeGroup w with
  | some i => .ok i
  | none => .error (.illegalOp w)

/-- The encoder, from the table of R91. -/
def encode : Instr → Byte
  | .build => 0x01
  | .parse => 0x02
  | .validate => 0x03
  | .encode => 0x04
  | .decode => 0x05
  | .bcdEnc => 0x10
  | .bcdDec => 0x11
  | .fanEnc => 0x12
  | .fanDec => 0x13
  | .modeEnc => 0x14
  | .modeDec => 0x15
  | .powerEnc => 0x16
  | .powerDec => 0x17
  | .tempcEnc => 0x18
  | .tempfEnc => 0x19
  | .clockEnc => 0x1A
  | .presetEnc => 0x1B
  | .presetDec => 0x1C
  | .cksum1 => 0x1D
  | .cksum2 => 0x1E
  | .emitBits => 0x20
  | .expectMark => 0x21
  | .expectSpace => 0x22
  | .expectPair => 0x23
  | .decodeBit => 0x24
  | .consumeBits => 0x25

/-- The host's view: the instruction whose first `nbits` bits are those of `w`, the bits above them being 0. An
operation is one 8-bit word (R108), so a value of more than 8 bits is none. -/
def decodeTableWord (nbits w : Nat) : Option Instr :=
  let v := w % 2 ^ nbits
  if v < 256 then (decode (BitVec.ofNat 8 v)).toOption else none

end Sys2Proof
end

