-- ==== Sys2Proof/Machine/State.lean ====
section
/-!
DEFINITION. The machine's state as plain data (10_state.md R31-R47), its outcomes, and the state after reset
(10_state.md R46, 70_reset_and_hazards.md R270).
-/

namespace Sys2Proof.Machine

/-- The frame buffer's contents as (address, byte) pairs: addresses strictly rising and below 16, and no entry equal to
0x00, which is what an unlisted address reads as (R32, R46, log entry 11). -/
abbrev Memory := List Host.Cell

/-- One window of the transport's tolerance: a captured duration from `lo` to `hi` matches `expected` at `level`. The
configuration input `tol_match` is a list of windows (R8, R9, R41, log entry 3). -/
structure Window where
  level    : Level
  expected : Nat
  lo       : Nat
  hi       : Nat
  deriving DecidableEq, Repr

/-- DECODE's position in the timing grammar: element 0..8, byte 0..7, bit 0..7 (R38). -/
structure Dpc where
  e : Fin 9
  i : Fin 8
  j : Fin 8
  deriving DecidableEq, Repr

/-- A reject cause with the info it records (R241). -/
inductive Reject where
  /-- REJ_HEADER: the received byte 0. -/
  | header (received : Byte)
  /-- REJ_CKSUM1: the received and the computed nibble. -/
  | cksum1 (received computed : Nibble)
  /-- REJ_CKSUM2: the received and the computed nibble. -/
  | cksum2 (received computed : Nibble)
  /-- REJ_PULSE: the position and the cursor at the failing check. -/
  | pulse (dpc : Dpc) (cur : Nat)
  deriving DecidableEq, Repr

/-- A reason of a model-level FAULT (R242). -/
inductive FaultReason where
  | illegalOp
  | badOperand
  deriving DecidableEq, Repr

/-- STATUS: the outcome of the operation just completed (R39, R240). -/
inductive Status where
  | ok
  | reject (r : Reject)
  | fault (r : FaultReason)
  deriving DecidableEq, Repr

/-- The result ports: the value of the operation just completed, or nothing (R90, R91). -/
inductive Result where
  /-- No result: after reset, a REJECT or a FAULT (R241, R242). -/
  | absent
  /-- BUILD and DECODE. -/
  | frame (f : Frame)
  /-- PARSE. -/
  | decoded (d : Decoded)
  /-- VALIDATE: the frame is well formed; there is no further data. -/
  | valid
  /-- ENCODE: the pulse train and the carrier frequency in Hz. -/
  | train (p : List Pulse) (carrier : Nat)
  /-- EMIT_BITS: the pulses. -/
  | pulses (p : List Pulse)
  /-- BCD_ENC, POWER_ENC, TEMPC_ENC and TEMPF_ENC. -/
  | byte (b : Byte)
  /-- BCD_DEC. -/
  | nat (n : Nat)
  /-- FAN_ENC, MODE_ENC, CKSUM1 and CKSUM2. -/
  | nibble (n : Nibble)
  /-- FAN_DEC. -/
  | fan (f : Fan)
  /-- MODE_DEC. -/
  | mode (m : Mode)
  /-- POWER_DEC. -/
  | power (p : Power)
  /-- CLOCK_ENC: frame bytes 2, 3 and 14. -/
  | clock (b2 b3 b14 : Byte)
  /-- PRESET_ENC: the low nibble of byte 7, and byte 12. -/
  | presetBits (fl7 : Nibble) (b12 : Byte)
  /-- PRESET_DEC. -/
  | preset (p : Preset)
  /-- The expect checks: matched, and the cursor. -/
  | matched (m : Bool) (cur : Nat)
  /-- DECODE_BIT: the bit, and the cursor. -/
  | bit (b : Bool) (cur : Nat)
  /-- CONSUME_BITS: the eight bytes, and the cursor. -/
  | bytes (b : Section8) (cur : Nat)
  deriving DecidableEq, Repr

/-- Why a step stops the machine. Nothing does: the spec gives every operation and every illegal word an outcome after
which the next operation runs normally (R240, R244), so the type has no constructor. Safe. -/
inductive Fault
  deriving DecidableEq, Repr

/-- Why an instruction has no meaning. -/
inductive Refusal where
  /-- Answered by exec's arm of an instruction that is not modelled yet; no arm answers it now. Safe: the machine
  stops where the hardware goes on. -/
  | notModelled (mnemonic : String)
  deriving DecidableEq, Repr

/-- The whole state: the caller's inputs (`op`, `inp`, `tol`), the per-operation state of R31 (`fb` to `publish`), the
sticky model flag, and the result ports. -/
structure State where
  /-- `OP` (R44). -/
  op      : Byte
  /-- The operand ports (R90, R107). -/
  inp     : Inputs
  /-- The tolerance `tol_match`, a configuration input (R41, R273). -/
  tol     : List Window
  /-- `FB` (R32). -/
  fb      : Memory
  /-- `PT_OUT` (R36). -/
  ptOut   : List Pulse
  /-- `CUR` (R37). -/
  cur     : Nat
  /-- `DPC` (R38). -/
  dpc     : Dpc
  /-- `STATUS` (R39). -/
  status  : Status
  /-- `PUBLISH` (R42). -/
  publish : Bool
  /-- `FAULTED` (R43). -/
  faulted : Bool
  /-- The result ports. -/
  result  : Result
  deriving DecidableEq, Repr

/-- The operand ports at reset: DESIGN CHOICE, the spec gives the sampled inputs no value (log entry 2). -/
def resetInputs : Inputs where
  mode := 0
  fan := 0
  preset := 0
  targetC := .pair ⟨0, 1⟩
  power := 0
  time := ⟨false, 0, 0, 0⟩
  frame := Vector.replicate 16 0
  value := 0
  byte := 0
  nibble := 0
  byte7 := 0
  byte12 := 0
  bytes := Vector.replicate 8 0
  markDur := 0
  spaceDur := 0
  ptIn := []
  cur := 0

/-- The windows of the exact tolerance on the grammar's durations, at both levels: the least list that meets TL1. It is
the tolerance at reset: DESIGN CHOICE, the spec gives none (log entry 3). -/
def exactWindows : List Window :=
  Config.durations.map (fun d => ⟨.mark, d, d, d⟩) ++ Config.durations.map (fun d => ⟨.space, d, d, d⟩)

/-- The state after reset: R46's table (R270), FAULTED 0 (R43); the caller's inputs as log entries 2, 3 and 7 say. -/
def State.reset : State where
  op := 0x00
  inp := resetInputs
  tol := exactWindows
  fb := []
  ptOut := []
  cur := 0
  dpc := ⟨0, 0, 0⟩
  status := .ok
  publish := false
  faulted := false
  result := .absent

end Sys2Proof.Machine
end

