-- ==== Sys2Proof/Machine/Ops.lean ====
section
/-!
DEFINITION. The shared operations over the state: the frame buffer's memory (20_memory.md R60, R61), the transport's
tolerance (00_scope.md R9), the start of an operation (10_state.md R46), its end with a result, and raising a REJECT or
a FAULT (00_scope.md R13; 60_exceptions.md R241, R242, R248). The codec has no return from a raise (R249).
-/

namespace Sys2Proof.Machine

/-! ## The frame buffer -/

/-- `MemRead(a, 1)`: byte `a` of the frame buffer; 0x00 where nothing is listed (R12, R46). -/
def Memory.read (m : Memory) (a : Fin 16) : Byte :=
  match m with
  | [] => 0
  | (k, v) :: r => if k = a.val then v else Memory.read r a

/-- `MemWrite(a, 1, v)`, keeping the canonical form: writing 0x00 removes the entry (R12). -/
def Memory.write (m : Memory) (a : Fin 16) (v : Byte) : Memory :=
  match m with
  | [] => if v = 0 then [] else [(a.val, v)]
  | (k, w) :: r =>
    if a.val < k then (if v = 0 then (k, w) :: r else (a.val, v) :: (k, w) :: r)
    else if k = a.val then (if v = 0 then r else (a.val, v) :: r)
    else (k, w) :: Memory.write r a v

/-- The canonical form: addresses strictly rising and below 16, no listed 0x00. -/
def Memory.wf : Memory → Bool
  | [] => true
  | (k, v) :: r => decide (k < 16) && decide (v ≠ 0) && r.all (fun c => decide (k < c.1)) && Memory.wf r

/-- The frame the buffer holds: its 16 bytes in index order. -/
def Memory.toFrame (m : Memory) : Frame := Vector.ofFn (fun a => m.read a)

/-- The frame indexes in order. -/
def frameIdx : List (Fin 16) := [0, 1, 2, 3, 4, 5, 6, 7, 8, 9, 10, 11, 12, 13, 14, 15]

/-- The buffer that holds the frame `f`: its bytes in index order, less those that are 0x00. -/
def Memory.ofFrame (f : Frame) : Memory := frameIdx.filterMap fun a => if (f[a] : Byte) = 0 then none else some (a.val, (f[a] : Byte))

/-! ## The tolerance -/

/-- A tolerance: does a captured duration match an expected one at a level (R8)? -/
abbrev Tol := Level → Nat → Nat → Bool

/-- `tol_match` as the state's windows give it (log entry 3). -/
def tolMatch (ws : List Window) : Tol := fun l expected actual =>
  ws.any fun w => decide (w.level = l) && w.expected == expected && decide (w.lo ≤ actual) && decide (actual ≤ w.hi)

/-! ## The start and the end of an operation -/

/-- The start of an operation: the per-operation state takes R46's initial values; the caller's inputs and FAULTED
stay (R43, R46, R249). -/
def State.start (s : State) : State :=
  { s with fb := [], ptOut := [], cur := 0, dpc := ⟨0, 0, 0⟩, status := .ok, publish := false, result := .absent }

/-- The frame buffer written (R60). -/
def State.putFb (s : State) (m : Memory) : State := { s with fb := m }

/-- Pulses appended to PT_OUT, which grows by appending only (R60, R68). -/
def State.appendOut (s : State) (p : List Pulse) : State := { s with ptOut := s.ptOut ++ p }

/-- The receive path's position: cursor and grammar position (R37, R38). -/
def State.putPos (s : State) (c : Nat) (d : Dpc) : State := { s with cur := c, dpc := d }

/-- PUBLISH raised (R42). -/
def State.raisePublish (s : State) : State := { s with publish := true }

/-- The start of an operation with a frame operand: FB holds the operand (R32, R60, log entry 5). -/
def State.startFrame (s : State) : State := s.start.putFb (Memory.ofFrame s.inp.frame)

/-- The start of an operation with a cursor operand: CUR takes it (R46). -/
def State.startCur (s : State) : State := s.start.putPos s.inp.cur ⟨0, 0, 0⟩

/-- The end of an operation with outcome OK and a result (R12, R39). -/
def State.finish (s : State) (r : Result) : State := { s with status := .ok, result := r }

/-! ## Raising -/

/-- `raise Reject(cause, info)`: the operation ends, every result begun is discarded, STATUS is the reject, PUBLISH
is 0, FAULTED stays (R13, R241, R248). CUR and DPC keep the failing position (log entry 6). -/
def State.raiseReject (s : State) (r : Reject) : State :=
  { s with fb := [], ptOut := [], status := .reject r, publish := false, result := .absent }

/-- `raise Fault(reason)`: as a reject, and FAULTED becomes 1 (R13, R43, R242, R248). -/
def State.raiseFault (s : State) (r : FaultReason) : State :=
  { s with fb := [], ptOut := [], status := .fault r, publish := false, faulted := true, result := .absent }

/-- The end of an operation whose computation gives a result or a reject. -/
def State.settle (s : State) (r : Except Reject Result) : State :=
  match r with
  | .ok v => s.finish v
  | .error e => s.raiseReject e

/-- An operation whose operands may lie outside its domain: FAULT(BAD_OPERAND) comes before any result and any reject
(R242, R247). -/
def State.guardOperand (s : State) {α : Type} (o : Option α) (k : α → State) : State :=
  match o with
  | some a => k a
  | none => s.raiseFault .badOperand

/-- An illegal value of `OP`: FAULT(ILLEGAL_OP), no operand read, no result written (R92, R247). -/
def State.illegalOp (s : State) : State := s.start.raiseFault .illegalOp

/-! ## Codes of the outcomes (R241, R242) -/

/-- The numeric code of a reject cause (R241). -/
def Reject.code : Reject → Byte
  | .header _ => 0x1
  | .cksum1 _ _ => 0x2
  | .cksum2 _ _ => 0x3
  | .pulse _ _ => 0x4

/-- The numeric code of a fault reason (R242). -/
def FaultReason.code : FaultReason → Byte
  | .illegalOp => 0x80
  | .badOperand => 0x81

end Sys2Proof.Machine
end

