-- ==== Sys2Proof/Machine/Flags.lean ====
section
/-!
DEFINITION. The frame's flags and check nibbles: the two preset flag bits (10_state.md R40; 41_frame_builder_parser.md
R144, R145) and the two nibble checksums (R146-R148) with their placement (R149).
-/

namespace Sys2Proof.Machine

/-- PRESET_ENC's bits: the flag nibble of byte 7 (SLEEP, mask 0x02) and byte 12 (ECO, mask 0x04) (R144). -/
def presetEnc : Preset → Nibble × Byte
  | .none => (0x0, 0x00)
  | .eco => (0x0, 0x04)
  | .sleep => (0x2, 0x00)

/-- PRESET_DEC: eco first, then sleep; every other bit is ignored (R145). -/
def presetDec (b7 b12 : Byte) : Preset :=
  if b12 &&& 0x04 ≠ 0 then .eco
  else if b7 &&& 0x02 ≠ 0 then .sleep
  else .none

/-- The sum of both nibbles of byte `i` of `F`, as a natural number (R146). -/
def nibblePair (F : Frame) (i : Fin 16) : Nat := (hi4 F[i]).toNat + (lo4 F[i]).toNat

/-- `nibsum`: both nibbles of each byte of the range `is` and the low nibble of byte `c`, reduced mod 16 (R146). -/
def nibsum (F : Frame) (is : List (Fin 16)) (c : Fin 16) : Nibble :=
  BitVec.ofNat 4 (((is.map (nibblePair F)).sum + (lo4 F[c]).toNat) % 16)

/-- Checksum-1: bytes 0 to 6 and the low nibble of byte 7 (R147). -/
def cksum1 (F : Frame) : Nibble := nibsum F [0, 1, 2, 3, 4, 5, 6] 7

/-- Checksum-2: bytes 8 to 14 and the low nibble of byte 15; a sum and no XOR (R148). -/
def cksum2 (F : Frame) : Nibble := nibsum F [8, 9, 10, 11, 12, 13, 14] 15

/-- A nibble placed in the high nibble of byte `a` of the buffer, its low nibble kept: a read-modify-write
(R61, R149). -/
def placeHigh (m : Memory) (a : Fin 16) (c : Nibble) : Memory := m.write a (join4 c (lo4 (m.read a)))

/-- Checksum-1, then checksum-2, computed over the buffer and placed in it (R149). -/
def placeChecksums (m : Memory) : Memory :=
  let m1 := placeHigh m 7 (cksum1 m.toFrame)
  placeHigh m1 15 (cksum2 m1.toFrame)

end Sys2Proof.Machine
end

