-- ==== Sys2Proof/Machine/Operands.lean ====
section
/-!
DEFINITION. The operand forms: the interface codes of the enumerations (30_encoding.md R107), the target_c and time
ports (10_state.md R33, R34), and the thermostat state that BUILD reads. A code with no meaning reads as `none`, which
raises FAULT(BAD_OPERAND).
-/

namespace Sys2Proof.Machine

/-- The mode of an interface code; 6 and 7 are illegal (R107). -/
def modeOf (c : BitVec 3) : Option Mode :=
  match c.toNat with
  | 0 => some .off
  | 1 => some .cool
  | 2 => some .heat
  | 3 => some .dry
  | 4 => some .fanOnly
  | 5 => some .heatCool
  | _ => none

/-- The interface code of a mode (R107). -/
def modeCode : Mode → BitVec 3
  | .off => 0
  | .cool => 1
  | .heat => 2
  | .dry => 3
  | .fanOnly => 4
  | .heatCool => 5

/-- The fan speed of an interface code: every code has one (R107). -/
def fanOf (c : BitVec 2) : Fan :=
  match c.toNat with
  | 0 => .auto
  | 1 => .low
  | 2 => .medium
  | _ => .high

/-- The interface code of a fan speed (R107). -/
def fanCode : Fan → BitVec 2
  | .auto => 0
  | .low => 1
  | .medium => 2
  | .high => 3

/-- The preset of an interface code; 3 is illegal (R107). -/
def presetOf (c : BitVec 2) : Option Preset :=
  match c.toNat with
  | 0 => some .none
  | 1 => some .eco
  | 2 => some .sleep
  | _ => none

/-- The interface code of a preset (R107). -/
def presetCode : Preset → BitVec 2
  | .none => 0
  | .eco => 1
  | .sleep => 2

/-- The power of an interface code (R107). -/
def powerOf (c : BitVec 1) : Power := if c = 0 then .off else .on

/-- The interface code of a power (R107). -/
def powerCode : Power → BitVec 1
  | .off => 0
  | .on => 1

/-- The level of an interface code (R107). -/
def levelOf (c : BitVec 1) : Level := if c = 0 then .space else .mark

/-- The interface code of a level (R107). -/
def levelCode : Level → BitVec 1
  | .space => 0
  | .mark => 1

/-- The rational on the target_c port: a pair with a positive denominator; anything else has no meaning
(R33, R107, log entry 9). -/
def tempOf (t : TempPort) : Option Ratio :=
  match t with
  | .pair q => if 0 < q.den then some q else none
  | .nonFinite => none

/-- The time on the time port: none unless the valid flag is set (R34, R107). -/
def timeOf (t : TimePort) : Option Clock :=
  if t.valid then some ⟨t.h.toNat, t.m.toNat, t.s.toNat⟩ else none

/-- BUILD's thermostat state, if each of its ports has a meaning (R33, R107). -/
def thermoOf (x : Inputs) : Option Thermo :=
  match modeOf x.mode, presetOf x.preset, tempOf x.targetC with
  | some m, some p, some q => some ⟨m, fanOf x.fan, q, p⟩
  | _, _, _ => none

/-- BCD_ENC's value, if it is at most 99 (R130). -/
def bcdOperand (v : Nat) : Option Nat := if v ≤ 99 then some v else none

/-- The ports set to a typed thermostat state and time: how a caller with typed values presents BUILD's operands. -/
def putThermo (x : Inputs) (st : Thermo) : Inputs :=
  { x with mode := modeCode st.mode, fan := fanCode st.fan, preset := presetCode st.preset, targetC := .pair st.targetC }

end Sys2Proof.Machine
end

