-- ==== Sys2Proof/Machine/FrameCodec.lean ====
section
/-!
DEFINITION. The frame builder's and parser's computations as functions of values (41_frame_builder_parser.md R130-R154):
what the meanings of groups 0x0 and 0x1 compute.
-/

namespace Sys2Proof.Machine

/-- The packed-BCD byte of a value 0..99: tens in the high nibble, units in the low nibble (R98, R130). -/
def bcdEnc (v : Nat) : Byte := join4 (BitVec.ofNat 4 (v / 10)) (BitVec.ofNat 4 (v % 10))

/-- One BCD byte as a number, its digits not checked (R131). -/
def bcdDec (b : Byte) : Nat := 10 * (hi4 b).toNat + (lo4 b).toNat

/-- The fan code nibble (R95, R132). -/
def fanEnc : Fan → Nibble
  | .auto => 0x1
  | .low => 0x8
  | .medium => 0x4
  | .high => 0x2

/-- The fan speed of a nibble; an unrecognised one is AUTO (R95, R133). -/
def fanDec (n : Nibble) : Fan :=
  match n.toNat with
  | 0x1 => .auto
  | 0x8 => .low
  | 0x4 => .medium
  | 0x2 => .high
  | _ => .auto

/-- The mode code nibble; OFF has cool's (R96, R134). -/
def modeEnc : Mode → Nibble
  | .cool => 0x2
  | .heat => 0x8
  | .fanOnly => 0x4
  | .dry => 0x1
  | .heatCool => 0xA
  | .off => 0x2

/-- The mode of a nibble; an unrecognised one is COOL, and OFF is never given (R96, R135). -/
def modeDec (n : Nibble) : Mode :=
  match n.toNat with
  | 0x2 => .cool
  | 0x8 => .heat
  | 0x4 => .fanOnly
  | 0x1 => .dry
  | 0xA => .heatCool
  | _ => .cool

/-- Byte 10: high nibble 0, low nibble 0x8 for on and 0xC for off (R97, R136). -/
def powerEnc (p : Power) : Byte :=
  join4 0x0 (match p with | .on => 0x8 | .off => 0xC)

/-- The power of byte 10: off iff its low nibble is 0xC (R97, R137). -/
def powerDec (b : Byte) : Power := if lo4 b = 0xC then .off else .on

/-- `clamp(x, lo, hi)` of a rational with a positive denominator and integer bounds, by comparing numerators over the
common denominator (R139, log entry 17). -/
def clampRatio (x : Ratio) (lo hi : Int) : Ratio :=
  if x.num < lo * x.den then ⟨lo, 1⟩
  else if hi * x.den < x.num then ⟨hi, 1⟩
  else x

/-- `round(x) = floor(x + 1/2)`, which for `num / den` is `(2 num + den) div (2 den)` (R11, R138, log entry 17). -/
def roundRatio (x : Ratio) : Int := (2 * x.num + x.den) / (2 * x.den)

/-- `t * 9 / 5 + 32`, exactly (R141). -/
def fahrenheit (t : Ratio) : Ratio := ⟨9 * t.num + 160 * t.den, 5 * t.den⟩

/-- TEMPC_ENC: clamped to 16..30, rounded, packed (R140). -/
def tempcEnc (t : Ratio) : Byte := bcdEnc (roundRatio (clampRatio t Config.tempCMin Config.tempCMax)).toNat

/-- TEMPF_ENC: converted from the unclamped value, clamped to 60..86, rounded, packed (R141). -/
def tempfEnc (t : Ratio) : Byte :=
  bcdEnc (roundRatio (clampRatio (fahrenheit t) Config.tempFMin Config.tempFMax)).toNat

/-- CLOCK_ENC: frame bytes 2, 3 and 14, all 0x00 without a valid time (R143). -/
def clockEnc (tm : Option Clock) : Byte × Byte × Byte :=
  match tm with
  | none => (0x00, 0x00, 0x00)
  | some t =>
    if t.h > 23 ∨ t.m > 59 ∨ t.s > 59 then (0x00, 0x00, 0x00)
    else (bcdEnc t.m, bcdEnc t.h, bcdEnc t.s)

/-- The power BUILD commands: on unless the mode is OFF (R33, R150). -/
def powerOfMode (m : Mode) : Power := if m = .off then .off else .on

/-- BUILD up to the checksums: the buffer `m` with every byte written, in the pseudocode's order (R150). -/
def buildFields (st : Thermo) (tm : Option Clock) (m : Memory) : Memory :=
  let clk := clockEnc tm
  let pre := presetEnc st.preset
  let m := m.write 0 Config.headerByte
  let m := m.write 1 (join4 (fanEnc st.fan) (modeEnc st.mode))
  let m := m.write 2 clk.1
  let m := m.write 3 clk.2.1
  let m := m.write 14 clk.2.2
  let m := m.write 4 0x00
  let m := m.write 5 0x00
  let m := m.write 6 (tempcEnc st.targetC)
  let m := m.write 12 pre.2
  let m := m.write 7 (join4 0x0 pre.1)
  let m := m.write 8 0x00
  let m := m.write 9 0x00
  let m := m.write 10 (powerEnc (powerOfMode st.mode))
  let m := m.write 11 (tempfEnc st.targetC)
  let m := m.write 13 0x00
  m.write 15 0x00

/-- BUILD: the fields, and the checksums last, after all other bytes are final (R149, R150). -/
def buildBuffer (st : Thermo) (tm : Option Clock) : Memory := placeChecksums (buildFields st tm [])

/-- VALIDATE's three tests, in order; the first that fails is the reject (R153, R245). -/
def validateFrame (F : Frame) : Except Reject Unit :=
  if F[0] ≠ Config.headerByte then .error (.header F[0])
  else if hi4 F[7] ≠ cksum1 F then .error (.cksum1 (hi4 F[7]) (cksum1 F))
  else if hi4 F[15] ≠ cksum2 F then .error (.cksum2 (hi4 F[15]) (cksum2 F))
  else .ok ()

/-- The decoded state of a frame that VALIDATE accepts: power governs the mode, the other fields are always decoded
(R154). -/
def decodeState (F : Frame) : Decoded :=
  let power := powerDec F[10]
  { power := power
    mode := match power with | .off => .off | .on => modeDec (lo4 F[1])
    fan := fanDec (hi4 F[1])
    targetC := bcdDec F[6]
    preset := presetDec F[7] F[12] }

/-- PARSE: VALIDATE, then the decoded state (R154). -/
def parseFrame (F : Frame) : Except Reject Decoded :=
  match validateFrame F with
  | .ok _ => .ok (decodeState F)
  | .error e => .error e

end Sys2Proof.Machine
end

