-- ==== Sys2Proof/Machine/FrameOps.lean ====
section
/-!
DEFINITION. The meanings of the frame builder's and parser's operations (41_frame_builder_parser.md R130-R154): BUILD,
PARSE, VALIDATE and group 0x1. Each is one step from the caller's ports to an outcome.
-/

namespace Sys2Proof.Machine

open Host (Outcome)

/-- BUILD (R150): FAULT(BAD_OPERAND) on a port with no meaning (R107), else the frame, total (R151). -/
def execBuild (s : State) : Outcome State Fault Refusal :=
  .next <| s.start.guardOperand (thermoOf s.inp) fun st =>
    let m := buildBuffer st (timeOf s.inp.time)
    (s.start.putFb m).finish (.frame m.toFrame)

/-- PARSE (R154): PUBLISH is 1 exactly on OK (R42). -/
def execParse (s : State) : Outcome State Fault Refusal :=
  .next <| match parseFrame s.startFrame.fb.toFrame with
    | .ok d => s.startFrame.raisePublish.finish (.decoded d)
    | .error e => s.startFrame.raiseReject e

/-- VALIDATE (R153). -/
def execValidate (s : State) : Outcome State Fault Refusal :=
  .next <| s.startFrame.settle ((validateFrame s.startFrame.fb.toFrame).map fun _ => .valid)

/-- BCD_ENC (R130): FAULT(BAD_OPERAND) for a value over 99. -/
def execBcdEnc (s : State) : Outcome State Fault Refusal :=
  .next <| s.start.guardOperand (bcdOperand s.inp.value) fun v => s.start.finish (.byte (bcdEnc v))

/-- BCD_DEC (R131). -/
def execBcdDec (s : State) : Outcome State Fault Refusal :=
  .next <| s.start.finish (.nat (bcdDec s.inp.byte))

/-- FAN_ENC (R132). -/
def execFanEnc (s : State) : Outcome State Fault Refusal :=
  .next <| s.start.finish (.nibble (fanEnc (fanOf s.inp.fan)))

/-- FAN_DEC (R133). -/
def execFanDec (s : State) : Outcome State Fault Refusal :=
  .next <| s.start.finish (.fan (fanDec s.inp.nibble))

/-- MODE_ENC (R134): FAULT(BAD_OPERAND) on the codes 6 and 7 (R107). -/
def execModeEnc (s : State) : Outcome State Fault Refusal :=
  .next <| s.start.guardOperand (modeOf s.inp.mode) fun m => s.start.finish (.nibble (modeEnc m))

/-- MODE_DEC (R135). -/
def execModeDec (s : State) : Outcome State Fault Refusal :=
  .next <| s.start.finish (.mode (modeDec s.inp.nibble))

/-- POWER_ENC (R136). -/
def execPowerEnc (s : State) : Outcome State Fault Refusal :=
  .next <| s.start.finish (.byte (powerEnc (powerOf s.inp.power)))

/-- POWER_DEC (R137). -/
def execPowerDec (s : State) : Outcome State Fault Refusal :=
  .next <| s.start.finish (.power (powerDec s.inp.byte))

/-- TEMPC_ENC (R140): FAULT(BAD_OPERAND) on a port that names no rational (R242). -/
def execTempcEnc (s : State) : Outcome State Fault Refusal :=
  .next <| s.start.guardOperand (tempOf s.inp.targetC) fun t => s.start.finish (.byte (tempcEnc t))

/-- TEMPF_ENC (R141): FAULT(BAD_OPERAND) on a port that names no rational (R242). -/
def execTempfEnc (s : State) : Outcome State Fault Refusal :=
  .next <| s.start.guardOperand (tempOf s.inp.targetC) fun t => s.start.finish (.byte (tempfEnc t))

/-- CLOCK_ENC (R143). -/
def execClockEnc (s : State) : Outcome State Fault Refusal :=
  .next <| match clockEnc (timeOf s.inp.time) with
    | (b2, b3, b14) => s.start.finish (.clock b2 b3 b14)

/-- PRESET_ENC (R144): FAULT(BAD_OPERAND) on the code 3 (R107). -/
def execPresetEnc (s : State) : Outcome State Fault Refusal :=
  .next <| s.start.guardOperand (presetOf s.inp.preset) fun p =>
    s.start.finish (.presetBits (presetEnc p).1 (presetEnc p).2)

/-- PRESET_DEC (R145). -/
def execPresetDec (s : State) : Outcome State Fault Refusal :=
  .next <| s.start.finish (.preset (presetDec s.inp.byte7 s.inp.byte12))

/-- CKSUM1 (R147). -/
def execCksum1 (s : State) : Outcome State Fault Refusal :=
  .next <| s.startFrame.finish (.nibble (cksum1 s.startFrame.fb.toFrame))

/-- CKSUM2 (R148). -/
def execCksum2 (s : State) : Outcome State Fault Refusal :=
  .next <| s.startFrame.finish (.nibble (cksum2 s.startFrame.fb.toFrame))

end Sys2Proof.Machine
end

