-- ==== Sys2Proof/Machine/PulseCodec.lean ====
section
/-!
DEFINITION. The pulse codec's computations as functions of values (42_pulse_codec.md R190-R206; 30_encoding.md
R103-R106): emission of bits and trains, the transport's cursor checks, and the decoder. Everything on the receive path
takes the tolerance as an argument (00_scope.md R8).
-/

namespace Sys2Proof.Machine

/-- The indexes 0 to 7 in order: the bytes of a section and the bits of a byte (R190, R198). -/
def idx8 : List (Fin 8) := [0, 1, 2, 3, 4, 5, 6, 7]

/-! ## The transmit path -/

/-- A mark followed by a space, as two emitted pulses (R12). -/
def markSpace (m s : Nat) : List Pulse := [⟨.mark, m⟩, ⟨.space, s⟩]

/-- One data bit: only its space carries the value (R103, R105). -/
def emitBit (b : Bool) : List Pulse := markSpace Config.bitMark (if b then Config.oneSpace else Config.zeroSpace)

/-- One byte, least significant bit first (R62, R190). -/
def emitByte (b : Byte) : List Pulse := idx8.flatMap fun j => emitBit (b.getLsbD j.val)

/-- EMIT_BITS: eight bytes, byte 0 first (R190). -/
def emitBits (B : Section8) : List Pulse := idx8.flatMap fun i => emitByte B[i]

/-- Bytes 0 to 7 of a frame: section 1 (R67). -/
def section1 (F : Frame) : Section8 := #v[F[0], F[1], F[2], F[3], F[4], F[5], F[6], F[7]]

/-- Bytes 8 to 15 of a frame: section 2 (R67). -/
def section2 (F : Frame) : Section8 := #v[F[8], F[9], F[10], F[11], F[12], F[13], F[14], F[15]]

/-- The frame of two sections (R67). -/
def joinSections (A B : Section8) : Frame :=
  #v[A[0], A[1], A[2], A[3], A[4], A[5], A[6], A[7], B[0], B[1], B[2], B[3], B[4], B[5], B[6], B[7]]

/-- ENCODE's train: the eight grammar elements in order (R104, R191). -/
def encodeTrain (F : Frame) : List Pulse :=
  markSpace Config.hdr1Mark Config.hdr1Space
    ++ emitBits (section1 F)
    ++ markSpace Config.ftrMark Config.ftrSpace
    ++ markSpace Config.ismMark Config.ismSpace
    ++ markSpace Config.hdr2Mark Config.hdr2Space
    ++ emitBits (section2 F)
    ++ markSpace Config.ftrMark Config.ftrSpace
    ++ [⟨.mark, Config.finalMark⟩]

/-! ## The transport's checks -/

/-- The pulse of `pt` at index `k` has level `l` and matches duration `d`; there is none past the end (R65, R194). -/
def pulseMatches (tol : Tol) (pt : List Pulse) (k : Nat) (l : Level) (d : Nat) : Bool :=
  match pt[k]? with
  | some p => decide (p.level = l) && tol l d p.dur
  | none => false

/-- EXPECT_MARK: the cursor moves by one pulse only on a match (R194). -/
def checkMark (tol : Tol) (pt : List Pulse) (cur d : Nat) : Bool × Nat :=
  if pulseMatches tol pt cur .mark d then (true, cur + 1) else (false, cur)

/-- EXPECT_SPACE: the cursor moves by one pulse only on a match (R195). -/
def checkSpace (tol : Tol) (pt : List Pulse) (cur d : Nat) : Bool × Nat :=
  if pulseMatches tol pt cur .space d then (true, cur + 1) else (false, cur)

/-- EXPECT_PAIR: all or nothing, the cursor moves by two pulses only if both match (R196). -/
def checkPair (tol : Tol) (pt : List Pulse) (cur m s : Nat) : Bool × Nat :=
  if pulseMatches tol pt cur .mark m && pulseMatches tol pt (cur + 1) .space s then (true, cur + 2) else (false, cur)

/-! ## The decoder -/

/-- A mark element of the grammar: the next cursor, or REJ_PULSE at this position (R199). -/
def needMark (tol : Tol) (pt : List Pulse) (dpc : Dpc) (cur d : Nat) : Except Reject Nat :=
  match checkMark tol pt cur d with
  | (true, c) => .ok c
  | (false, c) => .error (.pulse dpc c)

/-- A pair element of the grammar: the next cursor, or REJ_PULSE at this position (R199). -/
def needPair (tol : Tol) (pt : List Pulse) (dpc : Dpc) (cur m s : Nat) : Except Reject Nat :=
  match checkPair tol pt cur m s with
  | (true, c) => .ok c
  | (false, c) => .error (.pulse dpc c)

/-- DECODE_BIT at position `dpc`: the 1 symbol is tried first, then the 0 symbol (R197). -/
def readBit (tol : Tol) (pt : List Pulse) (dpc : Dpc) (cur : Nat) : Except Reject (Bool × Nat) :=
  match checkPair tol pt cur Config.bitMark Config.oneSpace with
  | (true, c) => .ok (true, c)
  | (false, c0) =>
    match checkPair tol pt c0 Config.bitMark Config.zeroSpace with
    | (true, c) => .ok (false, c)
    | (false, c) => .error (.pulse dpc c)

/-- The bits `js` of byte `i` in element `e`, each put at its place in the byte `b` (R198, inner loop). -/
def readByte (tol : Tol) (pt : List Pulse) (e : Fin 9) (i : Fin 8) (js : List (Fin 8)) (b : Byte) (cur : Nat) :
    Except Reject (Byte × Nat) :=
  match js with
  | [] => .ok (b, cur)
  | j :: rest =>
    match readBit tol pt ⟨e, i, j⟩ cur with
    | .error r => .error r
    | .ok (bit, c) => readByte tol pt e i rest (b ||| ((if bit then 1 else 0) <<< j.val)) c

/-- The bytes `is` of a section in element `e`, each read into its place in `B` (R198, outer loop). -/
def readBytes (tol : Tol) (pt : List Pulse) (e : Fin 9) (is : List (Fin 8)) (B : Section8) (cur : Nat) :
    Except Reject (Section8 × Nat) :=
  match is with
  | [] => .ok (B, cur)
  | i :: rest =>
    match readByte tol pt e i idx8 0x00 cur with
    | .error r => .error r
    | .ok (b, c) => readBytes tol pt e rest (B.set i b) c

/-- CONSUME_BITS in element `e`: 64 bits into eight bytes (R198). -/
def consumeBits (tol : Tol) (pt : List Pulse) (e : Fin 9) (cur : Nat) : Except Reject (Section8 × Nat) :=
  readBytes tol pt e idx8 (Vector.replicate 8 0x00) cur

/-- DECODE: the eight elements in order from cursor 0; the frame and the final cursor, or the reject of the first check
that fails (R199, R200, R246). -/
def decodeTrain (tol : Tol) (pt : List Pulse) : Except Reject (Frame × Nat) := do
  let c ← needPair tol pt ⟨0, 0, 0⟩ 0 Config.hdr1Mark Config.hdr1Space
  let (s1, c) ← consumeBits tol pt 1 c
  let c ← needPair tol pt ⟨2, 0, 0⟩ c Config.ftrMark Config.ftrSpace
  let c ← needPair tol pt ⟨3, 0, 0⟩ c Config.ismMark Config.ismSpace
  let c ← needPair tol pt ⟨4, 0, 0⟩ c Config.hdr2Mark Config.hdr2Space
  let (s2, c) ← consumeBits tol pt 5 c
  let c ← needPair tol pt ⟨6, 0, 0⟩ c Config.ftrMark Config.ftrSpace
  let c ← needMark tol pt ⟨7, 0, 0⟩ c Config.finalMark
  .ok (joinSections s1 s2, c)

/-- The position that a reject of the decoder names, `p` for any other (R241). -/
def Reject.dpcOr (r : Reject) (p : Dpc) : Dpc :=
  match r with
  | .pulse d _ => d
  | .header _ => p
  | .cksum1 _ _ => p
  | .cksum2 _ _ => p

/-- The cursor that a reject of the decoder names, `c` for any other (R241). -/
def Reject.curOr (r : Reject) (c : Nat) : Nat :=
  match r with
  | .pulse _ k => k
  | .header _ => c
  | .cksum1 _ _ => c
  | .cksum2 _ _ => c

end Sys2Proof.Machine
end

