-- ==== Sys2Proof/Machine/PulseOps.lean ====
section
/-!
DEFINITION. The meanings of the pulse codec's operations (42_pulse_codec.md R190-R199): ENCODE, DECODE and group 0x2.
The tolerance is the state's configuration input (R41).
-/

namespace Sys2Proof.Machine

open Host (Outcome)

/-- ENCODE (R191): total on every frame, the train with the carrier (R106, R206). -/
def execEncode (s : State) : Outcome State Fault Refusal :=
  let t := s.startFrame.appendOut (encodeTrain s.startFrame.fb.toFrame)
  .next (t.finish (.train t.ptOut Config.carrierHz))

/-- The state at a reject of the receive path: DPC and CUR are the position of the failing check, and the reject is
raised there (R199, R241, log entry 6). -/
def State.rejectAt (s : State) (e : Reject) : State :=
  (s.putPos (e.curOr s.cur) (e.dpcOr s.dpc)).raiseReject e

/-- DECODE (R199): the frame with all eight elements matched, or REJ_PULSE at the first failing check. -/
def execDecode (s : State) : Outcome State Fault Refusal :=
  .next <| match decodeTrain (tolMatch s.tol) s.inp.ptIn with
    | .ok (f, c) => ((s.start.putFb (Memory.ofFrame f)).putPos c ⟨8, 0, 0⟩).finish (.frame f)
    | .error e => s.start.rejectAt e

/-- EMIT_BITS (R190): 128 pulses appended to PT_OUT. -/
def execEmitBits (s : State) : Outcome State Fault Refusal :=
  let t := s.start.appendOut (emitBits s.inp.bytes)
  .next (t.finish (.pulses t.ptOut))

/-- The end of an expect check: its flag and cursor are the result, and the cursor is CUR (R37, R194). -/
def State.finishCheck (s : State) (r : Bool × Nat) : State := (s.putPos r.2 s.dpc).finish (.matched r.1 r.2)

/-- EXPECT_MARK (R194). A failed check is a result and no reject. -/
def execExpectMark (s : State) : Outcome State Fault Refusal :=
  .next (s.startCur.finishCheck (checkMark (tolMatch s.tol) s.inp.ptIn s.startCur.cur s.inp.markDur))

/-- EXPECT_SPACE (R195). -/
def execExpectSpace (s : State) : Outcome State Fault Refusal :=
  .next (s.startCur.finishCheck (checkSpace (tolMatch s.tol) s.inp.ptIn s.startCur.cur s.inp.spaceDur))

/-- EXPECT_PAIR (R196). -/
def execExpectPair (s : State) : Outcome State Fault Refusal :=
  .next (s.startCur.finishCheck (checkPair (tolMatch s.tol) s.inp.ptIn s.startCur.cur s.inp.markDur s.inp.spaceDur))

/-- DECODE_BIT issued alone (R197): DPC is (0, 0, 0) in a reject. -/
def execDecodeBit (s : State) : Outcome State Fault Refusal :=
  .next <| match readBit (tolMatch s.tol) s.inp.ptIn s.startCur.dpc s.startCur.cur with
    | .ok (b, c) => (s.startCur.putPos c s.startCur.dpc).finish (.bit b c)
    | .error e => s.startCur.rejectAt e

/-- CONSUME_BITS issued alone (R198): DPC is (0, i, j) in a reject, and (0, 7, 7) after the last bit. -/
def execConsumeBits (s : State) : Outcome State Fault Refusal :=
  .next <| match consumeBits (tolMatch s.tol) s.inp.ptIn s.startCur.dpc.e s.startCur.cur with
    | .ok (b, c) => (s.startCur.putPos c ⟨0, 7, 7⟩).finish (.bytes b c)
    | .error e => s.startCur.rejectAt e

end Sys2Proof.Machine
end

