-- ==== Sys2Proof/Machine/Dispatch.lean ====
section
/-!
DEFINITION. The dispatch: one arm per operation, in the order of spec/opcode_table.json (30_encoding.md R91).
-/

namespace Sys2Proof.Machine

/-- What operation `i` does to the state. -/
def exec (i : Instr) (s : State) : Host.Outcome State Fault Refusal :=
  match i with
  | .build => Sys2Proof.Machine.execBuild s
  | .parse => Sys2Proof.Machine.execParse s
  | .validate => Sys2Proof.Machine.execValidate s
  | .encode => Sys2Proof.Machine.execEncode s
  | .decode => Sys2Proof.Machine.execDecode s
  | .bcdEnc => Sys2Proof.Machine.execBcdEnc s
  | .bcdDec => Sys2Proof.Machine.execBcdDec s
  | .fanEnc => Sys2Proof.Machine.execFanEnc s
  | .fanDec => Sys2Proof.Machine.execFanDec s
  | .modeEnc => Sys2Proof.Machine.execModeEnc s
  | .modeDec => Sys2Proof.Machine.execModeDec s
  | .powerEnc => Sys2Proof.Machine.execPowerEnc s
  | .powerDec => Sys2Proof.Machine.execPowerDec s
  | .tempcEnc => Sys2Proof.Machine.execTempcEnc s
  | .tempfEnc => Sys2Proof.Machine.execTempfEnc s
  | .clockEnc => Sys2Proof.Machine.execClockEnc s
  | .presetEnc => Sys2Proof.Machine.execPresetEnc s
  | .presetDec => Sys2Proof.Machine.execPresetDec s
  | .cksum1 => Sys2Proof.Machine.execCksum1 s
  | .cksum2 => Sys2Proof.Machine.execCksum2 s
  | .emitBits => Sys2Proof.Machine.execEmitBits s
  | .expectMark => Sys2Proof.Machine.execExpectMark s
  | .expectSpace => Sys2Proof.Machine.execExpectSpace s
  | .expectPair => Sys2Proof.Machine.execExpectPair s
  | .decodeBit => Sys2Proof.Machine.execDecodeBit s
  | .consumeBits => Sys2Proof.Machine.execConsumeBits s

end Sys2Proof.Machine
end

