-- ==== Sys2Proof/Machine/Step.lean ====
section
/-!
DEFINITION. One step: the operation that the caller has put on `OP`, from start to outcome (10_state.md R44,
20_memory.md R66, 70_reset_and_hazards.md R272).
-/

namespace Sys2Proof.Machine

/-- One step: `OP` is decoded before any operand is read; an illegal value is FAULT(ILLEGAL_OP) (R92, R247). The caller's
inputs stay as they are, so that a caller that holds them repeats the operation (R66, log entry 1). -/
def step (s : State) : Host.Outcome State Fault Refusal :=
  match decode s.op with
  | .ok i => exec i s
  | .error _ => .next s.illegalOp

/-- The state whose next step runs the operation with bits `w`: the word on the `OP` port, every operand port as it is
(R44, log entry 1). -/
def State.withFetchWord (s : State) (nbits w : Nat) : State := { s with op := BitVec.ofNat 8 (w % 2 ^ nbits) }

/-- The caller issues an operation with its operands (R44, R272). -/
def State.issue (s : State) (i : Instr) (x : Inputs) : State := { s with op := encode i, inp := x }

end Sys2Proof.Machine
end

