-- ==== Sys2Proof/Machine/Program.lean ====
section
/-!
DEFINITION. The caller: a program is a sequence of operations that the caller issues, with values it holds between them
(20_memory.md R70, R73; 30_encoding.md R109), and the two pseudo-operations TX and RX (00_scope.md R3). It stands around
the step and adds no state to the codec. A name of the caller's is a number.
-/

namespace Sys2Proof.Machine

/-- A value the caller holds: an operand, or a result handed on as an operand (R70, R107, R109). -/
inductive Val where
  | thermo (mode : BitVec 3) (fan : BitVec 2) (targetC : TempPort) (preset : BitVec 2)
  | time (t : TimePort)
  | temp (t : TempPort)
  | frame (f : Frame)
  | decoded (d : Decoded)
  | pulses (p : List Pulse)
  | bytes (b : Section8)
  | byte (b : Byte)
  | nibble (n : Nibble)
  | nat (n : Nat)
  | mode (c : BitVec 3)
  | fan (c : BitVec 2)
  | preset (c : BitVec 2)
  | power (c : BitVec 1)
  | flag (b : Bool)
  | okay
  deriving DecidableEq, Repr

/-- A source of a line: a literal, or the name of a held value (R109). -/
inductive Src where
  | lit (v : Val)
  | name (n : Nat)
  deriving DecidableEq, Repr

/-- One line: `dst1, dst2 <- MNEMONIC src1, src2, …`, the operation by its `OP` byte; guarded if it begins `on OK:`
(R109). -/
structure Line where
  dsts : List Nat
  op   : Byte
  srcs : List Src
  onOk : Bool
  deriving DecidableEq, Repr

/-- The codec and the values the caller holds, the newest binding of a name first. -/
structure Caller where
  codec : State
  held  : List (Nat × Val)
  deriving DecidableEq, Repr

/-- What running a line or a program comes to. -/
inductive Run where
  /-- The program goes on, or has run to its end. -/
  | going (c : Caller)
  /-- The program ended at a line with that line's REJECT or FAULT (R109). -/
  | ended (c : Caller)
  /-- A line is not of R109's form: a name that nothing binds, or operands that are not the operation's (log entry 16). -/
  | illFormed
  deriving DecidableEq, Repr

/-- The value of a source. -/
def Caller.value (c : Caller) (s : Src) : Option Val :=
  match s with
  | .lit v => some v
  | .name n => (c.held.find? (fun b => b.1 == n)).map Prod.snd

/-- The operand bindings of a line, put on the operation's ports; the other ports keep their values (R91, R109). -/
def bindOperands (i : Instr) (vs : List Val) (x : Inputs) : Option Inputs :=
  match i, vs with
  | .build, [.thermo m f q p, .time t] => some { x with mode := m, fan := f, targetC := q, preset := p, time := t }
  | .parse, [.frame f] => some { x with frame := f }
  | .validate, [.frame f] => some { x with frame := f }
  | .encode, [.frame f] => some { x with frame := f }
  | .decode, [.pulses p] => some { x with ptIn := p }
  | .bcdEnc, [.nat n] => some { x with value := n }
  | .bcdDec, [.byte b] => some { x with byte := b }
  | .fanEnc, [.fan c] => some { x with fan := c }
  | .fanDec, [.nibble n] => some { x with nibble := n }
  | .modeEnc, [.mode c] => some { x with mode := c }
  | .modeDec, [.nibble n] => some { x with nibble := n }
  | .powerEnc, [.power c] => some { x with power := c }
  | .powerDec, [.byte b] => some { x with byte := b }
  | .tempcEnc, [.temp t] => some { x with targetC := t }
  | .tempfEnc, [.temp t] => some { x with targetC := t }
  | .clockEnc, [.time t] => some { x with time := t }
  | .presetEnc, [.preset c] => some { x with preset := c }
  | .presetDec, [.byte b7, .byte b12] => some { x with byte7 := b7, byte12 := b12 }
  | .cksum1, [.frame f] => some { x with frame := f }
  | .cksum2, [.frame f] => some { x with frame := f }
  | .emitBits, [.bytes b] => some { x with bytes := b }
  | .expectMark, [.nat d, .pulses p, .nat k] => some { x with markDur := d, ptIn := p, cur := k }
  | .expectSpace, [.nat d, .pulses p, .nat k] => some { x with spaceDur := d, ptIn := p, cur := k }
  | .expectPair, [.nat m, .nat s, .pulses p, .nat k] =>
    some { x with markDur := m, spaceDur := s, ptIn := p, cur := k }
  | .decodeBit, [.pulses p, .nat k] => some { x with ptIn := p, cur := k }
  | .consumeBits, [.pulses p, .nat k] => some { x with ptIn := p, cur := k }
  | _, _ => none

/-- The results of an operation as values, in the order of R91. -/
def resultVals : Result → List Val
  | .absent => []
  | .frame f => [.frame f]
  | .decoded d => [.decoded d]
  | .valid => [.okay]
  | .train p c => [.pulses p, .nat c]
  | .pulses p => [.pulses p]
  | .byte b => [.byte b]
  | .nat n => [.nat n]
  | .nibble n => [.nibble n]
  | .fan f => [.fan (fanCode f)]
  | .mode m => [.mode (modeCode m)]
  | .power p => [.power (powerCode p)]
  | .clock b2 b3 b14 => [.byte b2, .byte b3, .byte b14]
  | .presetBits fl b12 => [.nibble fl, .byte b12]
  | .preset p => [.preset (presetCode p)]
  | .matched m k => [.flag m, .nat k]
  | .bit b k => [.flag b, .nat k]
  | .bytes b k => [.bytes b, .nat k]

/-- The codec after one issued operation; a stop of the machine, of which there is none, keeps the state. -/
def stepped (s : State) : State :=
  match step s with
  | .next t => t
  | .fault _ => s
  | .refused _ => s

/-- After a line's operation: OK binds the destinations to the results in order, anything else ends the program (R109).
DESIGN CHOICE (log entry 16), since R109 is silent on destinations that do not fit the results: fewer names drop the last
results; more names leave the extra ones as they were, unbound or at an older value; a name given twice has the first of
its results. Unsafe for a claim about such names. -/
def Caller.after (c : Caller) (dsts : List Nat) (t : State) : Run :=
  if t.status = .ok then .going ⟨t, dsts.zip (resultVals t.result) ++ c.held⟩ else .ended { c with codec := t }

/-- One line (R109): a guarded line is passed over unless the previous operation returned OK; an illegal `OP` reads no
operand (R92); otherwise the operands are bound and the operation issued. DESIGN CHOICE (log entry 16), since R109 is silent
on a guard with no operation before it: the guard tests the codec's STATUS as it stands, so such a line runs from reset,
where STATUS is OK. Unsafe for a claim about such a line. -/
def runLine (c : Caller) (ln : Line) : Run :=
  if ln.onOk ∧ c.codec.status ≠ .ok then .going c
  else
    match decode ln.op with
    | .error _ => c.after ln.dsts (stepped { c.codec with op := ln.op })
    | .ok i =>
      match ln.srcs.mapM c.value with
      | none => .illFormed
      | some vs =>
        match bindOperands i vs c.codec.inp with
        | none => .illFormed
        | some x => c.after ln.dsts (stepped (c.codec.issue i x))

/-- A program: its lines in order, until one ends it (R109). -/
def runProgram (c : Caller) (p : List Line) : Run :=
  match p with
  | [] => .going c
  | ln :: rest =>
    match runLine c ln with
    | .going c' => runProgram c' rest
    | .ended c' => .ended c'
    | .illFormed => .illFormed

/-- `p <- TX s, t`: BUILD into `f`, then ENCODE of `f` (R109). -/
def txLines (p f : Nat) (s t : Src) : List Line :=
  [⟨[f], encode .build, [s, t], false⟩, ⟨[p], encode .encode, [.name f], false⟩]

/-- `r <- RX p`: DECODE into `f`, then PARSE of `f`; if DECODE rejects, PARSE does not run (R109). -/
def rxLines (r f : Nat) (p : Src) : List Line :=
  [⟨[f], encode .decode, [p], false⟩, ⟨[r], encode .parse, [.name f], false⟩]

end Sys2Proof.Machine
end

