-- ==== Sys2Proof/Safety.lean ====
section
/-!
DEFINITION. The terms claims are stated in: a run without a model-level fault (10_state.md R43), the tolerance's laws
(00_scope.md R9), the invariant of the machine's states between operations, how an operation ends, the timing grammar
over a capture (30_encoding.md R103, R104), and the exact arithmetic of the temperature path over the rationals.
-/

namespace Sys2Proof.Machine

/-- The premise of a claim about a sequence of operations: no operation faulted (R43). -/
def State.safe (s : State) : Bool := !s.faulted

/-- TL1: reflexive on the grammar (R9). -/
def TL1 (f : Tol) : Prop := ∀ l : Level, ∀ d ∈ Config.durations, f l d d = true

/-- TL2: the bit spaces are distinct (R9). -/
def TL2 (f : Tol) : Prop := f .space 1000 400 = false

/-- TL3: the two headers are distinct (R9). -/
def TL3 (f : Tol) : Prop := f .mark 9300 4600 = false ∨ f .space 5000 2600 = false

/-- The exact tolerance of the test vectors: a duration matches itself only. -/
def exactTol : Tol := fun _ e a => e == a

/-- Is the outcome a FAULT? -/
def Status.isFault : Status → Bool
  | .fault _ => true
  | .ok => false
  | .reject _ => false

/-- The caller's inputs are the same in both states (R44, R274). -/
def SameInputs (s t : State) : Prop := t.op = s.op ∧ t.inp = s.inp ∧ t.tol = s.tol

/-- Between operations: FB is in canonical form (R32); PUBLISH is up only with outcome OK and PARSE's result (R42); after
a REJECT or a FAULT there is no result, no byte of FB and no pulse of PT_OUT (R13, R248); a FAULT has set FAULTED (R43);
PT_OUT is empty, one section's bits or a whole train (R36, R190, R192). -/
structure State.Inv (s : State) : Prop where
  fb_wf : s.fb.wf = true
  publish_ok : s.publish = true → s.status = .ok ∧ ∃ d, s.result = .decoded d
  raised_absent : s.status ≠ .ok → s.result = .absent ∧ s.fb = [] ∧ s.ptOut = []
  fault_sets : s.status.isFault = true → s.faulted = true
  ptOut_shape : s.ptOut.length = 0 ∨ s.ptOut.length = 128 ∨ s.ptOut.length = 267

/-! ## How an operation ends (R240-R242) -/

/-- `i` ends with outcome OK and result `r`; FAULTED stays. -/
def Completes (i : Instr) (s : State) (r : Result) : Prop :=
  ∃ t, exec i s = .next t ∧ t.status = .ok ∧ t.result = r ∧ t.faulted = s.faulted

/-- `i` ends with outcome OK and result `r`, and writes nothing else: PUBLISH is 0, FB and PT_OUT keep the values of the
operation's start, 0x00 in every byte and no pulse (R46). This is "Flags written: none". -/
def CompletesPlain (i : Instr) (s : State) (r : Result) : Prop :=
  ∃ t, exec i s = .next t ∧ t.status = .ok ∧ t.result = r ∧ t.faulted = s.faulted ∧ t.publish = false ∧
    (∀ a, t.fb.read a = 0x00) ∧ t.ptOut = []

/-- An expect check ends with its flag and cursor as the result, and the cursor in CUR. -/
def ChecksTo (i : Instr) (s : State) (m : Bool) (k : Nat) : Prop :=
  CompletesPlain i s (.matched m k) ∧ ∃ t, exec i s = .next t ∧ t.cur = k

/-- `i` ends with the reject `e`: no result, PUBLISH 0, FAULTED unchanged (R241). -/
def Rejects (i : Instr) (s : State) (e : Reject) : Prop :=
  ∃ t, exec i s = .next t ∧ t.status = .reject e ∧ t.result = .absent ∧ t.publish = false ∧ t.faulted = s.faulted

/-- `i` ends with a FAULT: no result, PUBLISH 0, FAULTED set (R242). -/
def Faults (i : Instr) (s : State) (r : FaultReason) : Prop :=
  ∃ t, exec i s = .next t ∧ t.status = .fault r ∧ t.result = .absent ∧ t.publish = false ∧ t.faulted = true

/-! ## The timing grammar over a capture (R103, R104) -/

/-- The pulses of `pt` at `k` and `k + 1` match a mark of `m` and a space of `s`. -/
def PairAt (tol : Tol) (pt : List Pulse) (k m s : Nat) : Prop :=
  pulseMatches tol pt k .mark m = true ∧ pulseMatches tol pt (k + 1) .space s = true

/-- The pulses at `k` read as the bit `b`: the 1 symbol if it matches, else the 0 symbol (R197). -/
def BitAt (tol : Tol) (pt : List Pulse) (k : Nat) (b : Bool) : Prop :=
  match b with
  | true => PairAt tol pt k 340 1000
  | false => ¬ PairAt tol pt k 340 1000 ∧ PairAt tol pt k 340 400

/-- The pulses at `k` read as no bit. -/
def NoBitAt (tol : Tol) (pt : List Pulse) (k : Nat) : Prop :=
  ¬ PairAt tol pt k 340 1000 ∧ ¬ PairAt tol pt k 340 400

/-- The number of bit (i, j) within a section: 8 i + j (R62). -/
def bitNo (i j : Fin 8) : Nat := 8 * i.val + j.val

/-- The pulse index at which the decoder stands at position `d` (R104). -/
def posCur (d : Dpc) : Nat :=
  match d.e.val with
  | 0 => 0
  | 1 => 2 + 2 * bitNo d.i d.j
  | 2 => 130
  | 3 => 132
  | 4 => 134
  | 5 => 136 + 2 * bitNo d.i d.j
  | 6 => 264
  | 7 => 266
  | _ => 267

/-- `d` is a position at which DECODE makes a check: in elements 1 and 5 any bit, in the others i = j = 0 (R38). -/
def IsCheck (d : Dpc) : Prop := d.e.val < 8 ∧ (d.e = 1 ∨ d.e = 5 ∨ (d.i = 0 ∧ d.j = 0))

/-- The capture matches the grammar at position `d` (R104). -/
def MatchesAt (tol : Tol) (pt : List Pulse) (d : Dpc) : Prop :=
  match d.e.val with
  | 0 => PairAt tol pt 0 4600 2600
  | 1 => ∃ b, BitAt tol pt (posCur d) b
  | 2 => PairAt tol pt 130 340 20600
  | 3 => PairAt tol pt 132 4600 6700
  | 4 => PairAt tol pt 134 9300 5000
  | 5 => ∃ b, BitAt tol pt (posCur d) b
  | 6 => PairAt tol pt 264 340 20600
  | 7 => pulseMatches tol pt 266 .mark 4600 = true
  | _ => True

/-- The capture begins with a whole train whose data bits are those of `F` (R104, R199). -/
def CarriesFrame (tol : Tol) (pt : List Pulse) (F : Frame) : Prop :=
  (∀ d, IsCheck d → MatchesAt tol pt d) ∧
  (∀ i j : Fin 8, BitAt tol pt (2 + 2 * bitNo i j) ((section1 F)[i].getLsbD j)) ∧
  (∀ i j : Fin 8, BitAt tol pt (136 + 2 * bitNo i j) ((section2 F)[i].getLsbD j))

/-- Position `d` is the first at which the capture does not match the grammar. -/
def FirstMismatch (tol : Tol) (pt : List Pulse) (d : Dpc) : Prop :=
  IsCheck d ∧ ¬ MatchesAt tol pt d ∧ ∀ d', IsCheck d' → posCur d' < posCur d → MatchesAt tol pt d'

/-! ## The temperature path over the rationals (R11, R138, R139) -/

/-- The rational a pair names (R107). -/
def ratOf (q : Ratio) : ℚ := (q.num : ℚ) / (q.den : ℚ)

/-- `round(x) = floor(x + 1/2)` (R138). -/
def roundQ (x : ℚ) : ℤ := ⌊x + 1 / 2⌋

/-- `clamp(x, lo, hi) = min(hi, max(lo, x))` (R139). -/
def clampQ (x lo hi : ℚ) : ℚ := min hi (max lo x)

/-- The packed-BCD byte of a number, as `16 * tens + units` (R98). -/
def packed (n : Nat) : Byte := BitVec.ofNat 8 (16 * (n / 10) + n % 10)

/-! ## Frames -/

/-- `F` with bit `k` of byte `a` flipped (R156). -/
def flipBit (F : Frame) (a : Fin 16) (k : Fin 8) : Frame := F.set a (F[a] ^^^ (1 <<< k.val))

/-- The number of 1 bits of a frame (R193). -/
def onesOf (F : Frame) : Nat := (F.toList.map fun b => (idx8.filter fun j => b.getLsbD j.val).length).sum

/-- The sum of the two nibbles of a byte (R146). -/
def nibs (b : Byte) : Nat := b.toNat / 16 + b.toNat % 16

/-- The state with another frame on its operand port. -/
def State.withFrame (s : State) (F : Frame) : State := { s with inp := { s.inp with frame := F } }

/-- The state with another capture on its operand port. -/
def State.withTrain (s : State) (p : List Pulse) : State := { s with inp := { s.inp with ptIn := p } }

end Sys2Proof.Machine
end

