-- ==== Sys2Proof/Certificates/Slice0/Obligations.lean ====
section
/-!
DEFINITION. The statements about the machine, one definition each. Each docstring names the rule or the section of
spec/ that it formalises, and the log entries of any choice of the model's that it rests on. The terms are those of
Safety.lean. A statement about one operation says its word, what it ends with from every state, and its corner cases;
that no operation writes another's space is WritersOfTheSpaces, and that the caller's inputs stay is InputsStay.
-/

open Sys2Proof Sys2Proof.Machine

/-! ## The operation word -/

/-- Words written out from the encoding of R90 and R91 decode to the operations they stand for (30_encoding.md §1). -/
def Obligations.WordsOfTheTable : Prop :=
  decode 0b00000001 = .ok .build ∧ decode 0b00000101 = .ok .decode ∧ decode 0b00010000 = .ok .bcdEnc ∧
    decode 0b00011110 = .ok .cksum2 ∧ decode 0b00100000 = .ok .emitBits ∧ decode 0b00100101 = .ok .consumeBits

/-- Decoder and encoder agree on every word and every operation, in the host's numbering too (30_encoding.md §1). -/
def Obligations.DecodeEncodeAgree : Prop :=
  ∀ i : Instr, (∀ w : Byte, decode w = .ok i ↔ w = encode i) ∧
    ∀ n : Nat, n < 256 → (decodeTableWord 8 n = some i ↔ n = (encode i).toNat)

/-- R92: the illegal values of `OP`, and what each ends with; no operand is read, so the outcome is the same for all
operands, and no result is written. -/
def Obligations.IllegalOpFaults : Prop :=
  (∀ w : Byte, (∀ i, encode i ≠ w) ↔
    w = 0x00 ∨ (0x06 ≤ w.toNat ∧ w.toNat ≤ 0x0F) ∨ w = 0x1F ∨ 0x26 ≤ w.toNat) ∧
  ∀ s : State, (∀ i, encode i ≠ s.op) →
    ∃ t, step s = .next t ∧ t.status = .fault .illegalOp ∧ t.faulted = true ∧ t.result = .absent ∧
      ∀ x : Inputs, ∃ t', step { s with inp := x } = .next t' ∧ t'.status = .fault .illegalOp ∧
        t'.result = .absent ∧ t'.faulted = true

/-- A step runs the decoded operation, with nothing around it, and the host's fetch word is the word on the port
(10_state.md §6; log entry 1). -/
def Obligations.StepRunsDecoded : Prop :=
  (∀ (s : State) (i : Instr), decode s.op = .ok i → step s = exec i s) ∧
  (∀ (s : State) (i : Instr), step (s.withFetchWord 8 (encode i).toNat) =
    exec i (s.withFetchWord 8 (encode i).toNat)) ∧
  ∀ (s : State) (i : Instr) (x : Inputs), step (s.issue i x) = exec i (s.issue i x)

/-! ## The machine as a whole -/

/-- Every step keeps the machine's invariant (10_state.md §3, §5, §6; 60_exceptions.md §4; log entries 4, 6 and 11; the
result field is log entry 7). That PT_OUT holds 0, 128 or 267 pulses is the spec's own inference (42_pulse_codec.md §1,
"[derived: from rule R190 and rule R191]"). -/
def Obligations.StepKeepsInvariant : Prop :=
  ∀ s t : State, s.Inv → step s = .next t → t.Inv

/-- The invariant holds after reset (70_reset_and_hazards.md §1). -/
def Obligations.ResetMeetsInvariant : Prop := State.reset.Inv

/-- R270: what reset leaves, and that a reset between two operations changes no result. -/
def Obligations.ResetState : Prop :=
  ((∀ a, State.reset.fb.read a = 0x00) ∧ State.reset.ptOut = [] ∧ State.reset.cur = 0 ∧
    State.reset.dpc = ⟨0, 0, 0⟩ ∧ State.reset.status = .ok ∧ State.reset.publish = false ∧
    State.reset.faulted = false) ∧
  ∀ s : State, ∃ t t', step s = .next t ∧
    step { State.reset with op := s.op, inp := s.inp, tol := s.tol } = .next t' ∧
    t'.status = t.status ∧ t'.result = t.result ∧ t'.publish = t.publish

/-- R45: nothing survives an operation but FAULTED: two operations with equal inputs end in states equal but for
FAULTED, whatever went before them. -/
def Obligations.NothingSurvivesButFaulted : Prop :=
  ∀ s s' : State, s.op = s'.op → s.inp = s'.inp → s.tol = s'.tol →
    ∃ t t', step s = .next t ∧ step s' = .next t' ∧ t' = { t with faulted := t'.faulted }

/-- Repeating an operation on the same inputs gives the same state (20_memory.md §3; that the caller holds its inputs
is the model's choice, log entry 1). -/
def Obligations.StepIsIdempotent : Prop :=
  ∀ s t : State, step s = .next t → step t = .next t

/-- Every step ends, in exactly one of the three outcomes, with a result exactly in OK (60_exceptions.md §1; the result
port is the model's choice, log entry 7). -/
def Obligations.OneOutcomeWithResult : Prop :=
  ∀ s : State, ∃ t, step s = .next t ∧
    ((t.status = .ok ∧ t.result ≠ .absent) ∨
      ((∃ e, t.status = .reject e) ∧ t.result = .absent) ∨
      ((∃ r, t.status = .fault r) ∧ t.result = .absent))

/-- R42: PUBLISH is 1 exactly when PARSE completes with outcome OK. -/
def Obligations.PublishExactlyOnParse : Prop :=
  ∀ s t : State, step s = .next t → (t.publish = true ↔ decode s.op = .ok .parse ∧ t.status = .ok)

/-- R43: FAULTED is 0 at the start, set by a FAULT, cleared by nothing, and not set by a REJECT or by OK. -/
def Obligations.FaultedIsSticky : Prop :=
  State.reset.faulted = false ∧
  ∀ s t : State, step s = .next t → t.faulted = (s.faulted || t.status.isFault)

/-- R241: who raises each reject, on which condition and with which info; the codes; what a REJECT leaves; and that an
operation that ends in OK met none of its conditions. -/
def Obligations.RejectTable : Prop :=
  ((∀ b, (Reject.header b).code = 0x1) ∧ (∀ m n, (Reject.cksum1 m n).code = 0x2) ∧
    (∀ m n, (Reject.cksum2 m n).code = 0x3) ∧ (∀ d k, (Reject.pulse d k).code = 0x4)) ∧
  (∀ (s t : State) (i : Instr) (e : Reject), exec i s = .next t → t.status = .reject e →
    (t.result = .absent ∧ t.publish = false ∧ t.faulted = s.faulted ∧ SameInputs s t) ∧
    match e with
    | .header b => (i = .validate ∨ i = .parse) ∧ s.inp.frame[0] ≠ 0x16 ∧ b = s.inp.frame[0]
    | .cksum1 rcv cmp => (i = .validate ∨ i = .parse) ∧ hi4 s.inp.frame[7] ≠ cksum1 s.inp.frame ∧
        rcv = hi4 s.inp.frame[7] ∧ cmp = cksum1 s.inp.frame
    | .cksum2 rcv cmp => (i = .validate ∨ i = .parse) ∧ hi4 s.inp.frame[15] ≠ cksum2 s.inp.frame ∧
        rcv = hi4 s.inp.frame[15] ∧ cmp = cksum2 s.inp.frame
    | .pulse d k =>
        (i = .decode ∧ k = posCur d ∧ FirstMismatch (tolMatch s.tol) s.inp.ptIn d) ∨
        (i = .decodeBit ∧ d = ⟨0, 0, 0⟩ ∧ k = s.inp.cur ∧ NoBitAt (tolMatch s.tol) s.inp.ptIn k) ∨
        (i = .consumeBits ∧ d.e = 0 ∧ k = s.inp.cur + 2 * bitNo d.i d.j ∧
          NoBitAt (tolMatch s.tol) s.inp.ptIn k)) ∧
  ∀ (s t : State) (i : Instr), exec i s = .next t → t.status = .ok →
    (i = .validate ∨ i = .parse → s.inp.frame[0] = 0x16 ∧ hi4 s.inp.frame[7] = cksum1 s.inp.frame ∧
      hi4 s.inp.frame[15] = cksum2 s.inp.frame) ∧
    (i = .decode → ∀ d, IsCheck d → MatchesAt (tolMatch s.tol) s.inp.ptIn d) ∧
    (i = .decodeBit → ¬ NoBitAt (tolMatch s.tol) s.inp.ptIn s.inp.cur) ∧
    (i = .consumeBits → ∀ j k : Fin 8, ¬ NoBitAt (tolMatch s.tol) s.inp.ptIn (s.inp.cur + 2 * bitNo j k))

/-- R242: the codes of the faults; which operations fault, exactly when, with which reason; FAULTED is set and the
results are absent. The premise on the target_c port is R107's: a pair on it has a positive denominator. -/
def Obligations.FaultTable : Prop :=
  FaultReason.illegalOp.code = 0x80 ∧ FaultReason.badOperand.code = 0x81 ∧
  ∀ s t : State, step s = .next t →
    (t.status = .fault .illegalOp ↔ ∀ i, encode i ≠ s.op) ∧
    ((∀ q, s.inp.targetC = .pair q → 0 < q.den) →
      (t.status = .fault .badOperand ↔
        (s.op = encode .build ∨ s.op = encode .modeEnc) ∧ 6 ≤ s.inp.mode.toNat ∨
        (s.op = encode .build ∨ s.op = encode .presetEnc) ∧ s.inp.preset = 3 ∨
        (s.op = encode .build ∨ s.op = encode .tempcEnc ∨ s.op = encode .tempfEnc) ∧ s.inp.targetC = .nonFinite ∨
        s.op = encode .bcdEnc ∧ 99 < s.inp.value)) ∧
    (t.status.isFault = true → t.faulted = true ∧ t.result = .absent)

/-- The interface codes of R107, and the FAULT of the codes with no meaning (30_encoding.md §2; that a pair with a
denominator of 0 or less has no meaning is log entry 9). -/
def Obligations.InterfaceCodes : Prop :=
  [Mode.off, .cool, .heat, .dry, .fanOnly, .heatCool].map modeCode = [0, 1, 2, 3, 4, 5] ∧
  [Fan.auto, .low, .medium, .high].map fanCode = [0, 1, 2, 3] ∧
  [Preset.none, .eco, .sleep].map presetCode = [0, 1, 2] ∧
  [Power.off, .on].map powerCode = [0, 1] ∧ [Level.space, .mark].map levelCode = [0, 1] ∧
  (∀ m, modeOf (modeCode m) = some m) ∧ (∀ f, fanOf (fanCode f) = f) ∧ (∀ p, presetOf (presetCode p) = some p) ∧
  (∀ p, powerOf (powerCode p) = p) ∧ (∀ l, levelOf (levelCode l) = l) ∧
  (∀ s : State, s.inp.mode = 6 ∨ s.inp.mode = 7 → Faults .build s .badOperand ∧ Faults .modeEnc s .badOperand) ∧
  (∀ s : State, s.inp.preset = 3 → Faults .build s .badOperand ∧ Faults .presetEnc s .badOperand) ∧
  ∀ s : State, (s.inp.targetC = .nonFinite ∨ ∃ q, s.inp.targetC = .pair q ∧ q.den ≤ 0) →
    Faults .build s .badOperand ∧ Faults .tempcEnc s .badOperand ∧ Faults .tempfEnc s .badOperand

/-! ## Frames: what no operation, and what only some operations, write -/

/-- No operation writes the caller's inputs: `OP`, the operand ports, the tolerance (10_state.md §6; that the ports are
held between steps is the model's choice, log entry 1). -/
def Obligations.InputsStay : Prop :=
  ∀ s t : State, step s = .next t → SameInputs s t

/-- Which operation writes which space when it ends in OK (20_memory.md §1): FB holds the built or decoded frame, the
frame operand (log entry 5), or its initial zeros; PT_OUT is written by ENCODE and EMIT_BITS alone; CUR and DPC by the
receive path alone (10_state.md §5; the values they keep are log entries 6 and 12). -/
def Obligations.WritersOfTheSpaces : Prop :=
  ∀ (i : Instr) (s t : State), exec i s = .next t → t.status = .ok →
    (match i with
      | .build | .decode => ∃ F, t.result = .frame F ∧ ∀ a : Fin 16, t.fb.read a = F[a]
      | .parse | .validate | .encode | .cksum1 | .cksum2 => ∀ a : Fin 16, t.fb.read a = s.inp.frame[a]
      | _ => ∀ a, t.fb.read a = 0x00) ∧
    (i ≠ .encode → i ≠ .emitBits → t.ptOut = []) ∧
    (i ∉ [Instr.decode, .expectMark, .expectSpace, .expectPair, .decodeBit, .consumeBits] → t.cur = 0) ∧
    (i ≠ .decode → i ≠ .consumeBits → t.dpc = ⟨0, 0, 0⟩) ∧
    (i = .decode → t.cur = 267 ∧ t.dpc = ⟨8, 0, 0⟩)

/-! ## BCD -/

/-- R130: BCD_ENC; the codec's own callers pass a temperature of at most 86 or clock values of at most 59. -/
def Obligations.BcdEncPacks : Prop :=
  encode .bcdEnc = 0x10 ∧
  (∀ s : State, s.inp.value ≤ 99 → CompletesPlain .bcdEnc s (.byte (packed s.inp.value))) ∧
  (∀ s : State, 99 < s.inp.value → Faults .bcdEnc s .badOperand) ∧
  (∀ v, v ≤ 99 → (hi4 (packed v)).toNat = v / 10 ∧ (lo4 (packed v)).toNat = v % 10 ∧ v / 10 ≤ 9) ∧
  (∀ q : Ratio, 0 < q.den →
    (roundRatio (clampRatio q 16 30)).toNat ≤ 30 ∧ (roundRatio (clampRatio (fahrenheit q) 60 86)).toNat ≤ 86) ∧
  (∀ c : Clock, clockEnc (some c) ≠ (0x00, 0x00, 0x00) → c.h ≤ 59 ∧ c.m ≤ 59 ∧ c.s ≤ 59) ∧
  packed 0 = 0x00 ∧ packed 99 = 0x99 ∧ packed 24 = 0x24

/-- R131: BCD_DEC; no digit is checked and nothing is clamped. -/
def Obligations.BcdDecReads : Prop :=
  encode .bcdDec = 0x11 ∧
  (∀ s : State, CompletesPlain .bcdDec s (.nat (10 * (s.inp.byte.toNat / 16) + s.inp.byte.toNat % 16))) ∧
  (∀ b : Byte, bcdDec b ≤ 165) ∧
  bcdDec 0x1F = 25 ∧ bcdDec 0xA0 = 100 ∧ bcdDec 0xFF = 165 ∧ bcdDec 0x24 = 24 ∧
  (∀ v, v ≤ 99 → bcdDec (bcdEnc v) = v)

/-! ## Field codes -/

/-- R132 and R133: FAN_ENC and FAN_DEC. -/
def Obligations.FanCodes : Prop :=
  encode .fanEnc = 0x12 ∧ encode .fanDec = 0x13 ∧
  (∀ s : State, CompletesPlain .fanEnc s (.nibble
    (if s.inp.fan = 0 then 0x1 else if s.inp.fan = 1 then 0x8 else if s.inp.fan = 2 then 0x4 else 0x2))) ∧
  (∀ s : State, CompletesPlain .fanDec s (.fan
    (if s.inp.nibble = 0x8 then .low else if s.inp.nibble = 0x4 then .medium
      else if s.inp.nibble = 0x2 then .high else .auto))) ∧
  Function.Injective fanEnc ∧ (∀ f, fanDec (fanEnc f) = f) ∧
  fanEnc .high = 0x2 ∧ fanDec 0x1 = .auto ∧ fanDec 0x2 = .high ∧ fanDec 0xF = .auto

/-- R134 and R135: MODE_ENC and MODE_DEC. -/
def Obligations.ModeCodes : Prop :=
  encode .modeEnc = 0x14 ∧ encode .modeDec = 0x15 ∧
  (∀ s : State, s.inp.mode.toNat < 6 → CompletesPlain .modeEnc s (.nibble
    (if s.inp.mode = 2 then 0x8 else if s.inp.mode = 3 then 0x1 else if s.inp.mode = 4 then 0x4
      else if s.inp.mode = 5 then 0x2 ||| 0x8 else 0x2))) ∧
  (∀ s : State, 6 ≤ s.inp.mode.toNat → Faults .modeEnc s .badOperand) ∧
  (∀ s : State, CompletesPlain .modeDec s (.mode
    (if s.inp.nibble = 0x8 then .heat else if s.inp.nibble = 0x4 then .fanOnly
      else if s.inp.nibble = 0x1 then .dry else if s.inp.nibble = 0xA then .heatCool else .cool))) ∧
  (∀ n, modeDec n ≠ .off) ∧ (∀ m, m ≠ .off → modeDec (modeEnc m) = m) ∧
  modeEnc .off = 0x2 ∧ modeEnc .cool = 0x2 ∧ modeEnc .heatCool = 0xA ∧ modeDec 0xA = .heatCool ∧ modeDec 0x0 = .cool

/-- R136 and R137: POWER_ENC and POWER_DEC. -/
def Obligations.PowerCodes : Prop :=
  encode .powerEnc = 0x16 ∧ encode .powerDec = 0x17 ∧
  (∀ s : State, CompletesPlain .powerEnc s (.byte (if s.inp.power = 1 then 0x08 else 0x0C))) ∧
  (∀ s : State, CompletesPlain .powerDec s (.power (if s.inp.byte.toNat % 16 = 12 then .off else .on))) ∧
  (∀ p, hi4 (powerEnc p) = 0x0) ∧
  powerEnc .on = 0x08 ∧ powerEnc .off = 0x0C ∧ powerDec 0x08 = .on ∧ powerDec 0x0C = .off ∧ powerDec 0xFC = .off

/-! ## Temperature and clock -/

/-- R140: TEMPC_ENC, over the rationals. -/
def Obligations.TempcEncRounds : Prop :=
  encode .tempcEnc = 0x18 ∧
  (∀ (s : State) (q : Ratio), s.inp.targetC = .pair q → 0 < q.den →
    CompletesPlain .tempcEnc s (.byte (packed (roundQ (clampQ (ratOf q) 16 30)).toNat)) ∧
    16 ≤ roundQ (clampQ (ratOf q) 16 30) ∧ roundQ (clampQ (ratOf q) 16 30) ≤ 30) ∧
  tempcEnc ⟨5, 1⟩ = 0x16 ∧ tempcEnc ⟨35, 1⟩ = 0x30 ∧ tempcEnc ⟨45, 2⟩ = 0x23 ∧ tempcEnc ⟨59, 2⟩ = 0x30 ∧
  tempcEnc ⟨159, 10⟩ = 0x16 ∧ tempcEnc ⟨-40, 1⟩ = 0x16 ∧ tempcEnc ⟨24, 1⟩ = 0x24

/-- R141: TEMPF_ENC, over the rationals and from the unclamped temperature. -/
def Obligations.TempfEncRounds : Prop :=
  encode .tempfEnc = 0x19 ∧
  (∀ (s : State) (q : Ratio), s.inp.targetC = .pair q → 0 < q.den →
    CompletesPlain .tempfEnc s (.byte (packed (roundQ (clampQ (ratOf q * 9 / 5 + 32) 60 86)).toNat)) ∧
    60 ≤ roundQ (clampQ (ratOf q * 9 / 5 + 32) 60 86) ∧ roundQ (clampQ (ratOf q * 9 / 5 + 32) 60 86) ≤ 86) ∧
  tempfEnc ⟨223, 10⟩ = 0x72 ∧ tempfEnc ⟨16, 1⟩ = 0x61 ∧ tempfEnc ⟨30, 1⟩ = 0x86 ∧ tempfEnc ⟨5, 1⟩ = 0x60 ∧
  tempfEnc ⟨35, 1⟩ = 0x86 ∧ tempfEnc ⟨45, 2⟩ = 0x73 ∧ tempfEnc ⟨35, 2⟩ = 0x64 ∧ tempfEnc ⟨31, 2⟩ = 0x60 ∧
  tempfEnc ⟨59, 2⟩ = 0x85 ∧ tempfEnc ⟨24, 1⟩ = 0x75

/-- The order of clamping and rounding cannot change a result (41_frame_builder_parser.md §3: "For integer bounds,
`round(clamp(x, lo, hi)) = clamp(round(x), lo, hi)`", the spec's own inference, "[derived: from rule R138]"); and the
model's integer form is that over the rationals (log entry 17). -/
def Obligations.ClampRoundCommute : Prop :=
  ∀ (q : Ratio) (lo hi : Int), 0 < q.den → lo ≤ hi →
    roundRatio (clampRatio q lo hi) = min hi (max lo (roundRatio q)) ∧
      roundRatio (clampRatio q lo hi) = roundQ (clampQ (ratOf q) lo hi)

/-- Byte 11 is no function of byte 6 (41_frame_builder_parser.md §3: "Byte 11 is not a function of byte 6", the spec's
own inference, "[derived: from rule R140 and rule R141]"). -/
def Obligations.FahrenheitIsIndependent : Prop :=
  ¬ ∃ f : Byte → Byte, ∀ q : Ratio, 0 < q.den → tempfEnc q = f (tempcEnc q)

/-- R143: CLOCK_ENC. -/
def Obligations.ClockEncPacks : Prop :=
  encode .clockEnc = 0x1A ∧
  (∀ s : State, CompletesPlain .clockEnc s
    (if s.inp.time.valid = true ∧ s.inp.time.h.toNat ≤ 23 ∧ s.inp.time.m.toNat ≤ 59 ∧ s.inp.time.s.toNat ≤ 59
      then .clock (packed s.inp.time.m.toNat) (packed s.inp.time.h.toNat) (packed s.inp.time.s.toNat)
      else .clock 0x00 0x00 0x00)) ∧
  clockEnc none = (0x00, 0x00, 0x00) ∧ clockEnc (some ⟨0, 0, 0⟩) = (0x00, 0x00, 0x00) ∧
  clockEnc (some ⟨23, 59, 59⟩) = (0x59, 0x23, 0x59) ∧ clockEnc (some ⟨24, 0, 0⟩) = (0x00, 0x00, 0x00) ∧
  (∀ h m, clockEnc (some ⟨h, m, 60⟩) = (0x00, 0x00, 0x00)) ∧
  clockEnc (some ⟨13, 45, 7⟩) = (0x45, 0x13, 0x07)

/-! ## Presets -/

/-- R144: PRESET_ENC, and the flags in BUILD's frame. -/
def Obligations.PresetEncFlags : Prop :=
  encode .presetEnc = 0x1B ∧
  (∀ s : State, s.inp.preset.toNat < 3 → CompletesPlain .presetEnc s
    (.presetBits (if s.inp.preset = 2 then 0x2 else 0x0) (if s.inp.preset = 1 then 0x04 else 0x00))) ∧
  (∀ s : State, s.inp.preset = 3 → Faults .presetEnc s .badOperand) ∧
  (∀ (s : State) (F : Frame), Completes .build s (.frame F) →
    (lo4 F[7], F[12]) = (if s.inp.preset = 2 then (0x2, 0x00) else if s.inp.preset = 1 then (0x0, 0x04)
      else (0x0, 0x00))) ∧
  presetEnc .sleep = (0x2, 0x00)

/-- R145: PRESET_DEC; eco goes before sleep. -/
def Obligations.PresetDecPriority : Prop :=
  encode .presetDec = 0x1C ∧
  (∀ s : State, CompletesPlain .presetDec s (.preset
    (if s.inp.byte12.getLsbD 2 = true then .eco else if s.inp.byte7.getLsbD 1 = true then .sleep else .none))) ∧
  presetDec 0xFD 0x00 = .none ∧ presetDec 0x12 0x00 = .sleep ∧ presetDec 0x32 0x04 = .eco

/-! ## Checksums -/

/-- R147: CKSUM1, as the sum of 15 nibbles mod 16. -/
def Obligations.Cksum1Sums : Prop :=
  encode .cksum1 = 0x1D ∧
  (∀ s : State, ∃ t n, exec .cksum1 s = .next t ∧ t.status = .ok ∧ t.result = .nibble n ∧ t.publish = false ∧
    t.faulted = s.faulted ∧
    n.toNat = (nibs s.inp.frame[0] + nibs s.inp.frame[1] + nibs s.inp.frame[2] + nibs s.inp.frame[3] +
      nibs s.inp.frame[4] + nibs s.inp.frame[5] + nibs s.inp.frame[6] + s.inp.frame[7].toNat % 16) % 16) ∧
  (∀ F G : Frame, (∀ a : Fin 16, a.val < 7 → F[a] = G[a]) → lo4 F[7] = lo4 G[7] → cksum1 F = cksum1 G) ∧
  (∀ F : Frame, F[0] = 0x16 → (∀ a : Fin 16, 1 ≤ a.val → a.val < 7 → F[a] = 0x00) → lo4 F[7] = 0x0 →
    cksum1 F = 0x7) ∧
  cksum1 #v[0x16, 0x22, 0, 0, 0, 0, 0x24, 0x10, 0, 0, 0, 0, 0, 0, 0, 0] = 0x1

/-- R148: CKSUM2, as the sum of 15 nibbles mod 16; a sum and no XOR (90_conflicts.md C1). -/
def Obligations.Cksum2Sums : Prop :=
  encode .cksum2 = 0x1E ∧
  (∀ s : State, ∃ t n, exec .cksum2 s = .next t ∧ t.status = .ok ∧ t.result = .nibble n ∧ t.publish = false ∧
    t.faulted = s.faulted ∧
    n.toNat = (nibs s.inp.frame[8] + nibs s.inp.frame[9] + nibs s.inp.frame[10] + nibs s.inp.frame[11] +
      nibs s.inp.frame[12] + nibs s.inp.frame[13] + nibs s.inp.frame[14] + s.inp.frame[15].toNat % 16) % 16) ∧
  (∀ F G : Frame, (∀ a : Fin 16, 8 ≤ a.val → a.val < 15 → F[a] = G[a]) → lo4 F[15] = lo4 G[15] →
    cksum2 F = cksum2 G) ∧
  (∀ (s : State) (F : Frame), Completes .build s (.frame F) → lo4 F[15] = 0x0) ∧
  cksum2 #v[0, 0, 0, 0, 0, 0, 0, 0, 0, 0, 0x08, 0x75, 0, 0, 0, 0x40] = 0x4 ∧
  (0x8 ^^^ 0x7 ^^^ 0x5 : Nibble) = 0xA

/-! ## BUILD, VALIDATE, PARSE -/

/-- R150: BUILD, byte by byte; `st` is the thermostat state on the ports. -/
def Obligations.BuildFrameBytes : Prop :=
  encode .build = 0x01 ∧
  (∀ (s : State) (st : Thermo), thermoOf s.inp = some st →
    ∃ t F, exec .build s = .next t ∧ t.status = .ok ∧ t.result = .frame F ∧ t.publish = false ∧
      t.faulted = s.faulted ∧ (∀ a : Fin 16, t.fb.read a = F[a]) ∧
      F[0] = 0x16 ∧ hi4 F[1] = fanEnc st.fan ∧ lo4 F[1] = modeEnc st.mode ∧
      (F[2], F[3], F[14]) = clockEnc (timeOf s.inp.time) ∧
      F[4] = 0x00 ∧ F[5] = 0x00 ∧ F[6] = tempcEnc st.targetC ∧
      (lo4 F[7], F[12]) = presetEnc st.preset ∧ F[8] = 0x00 ∧ F[9] = 0x00 ∧
      F[10] = (if st.mode = .off then 0x0C else 0x08) ∧ F[11] = tempfEnc st.targetC ∧ F[13] = 0x00 ∧
      lo4 F[15] = 0x0 ∧ hi4 F[7] = cksum1 F ∧ hi4 F[15] = cksum2 F ∧
      Completes .validate (s.withFrame F) .valid) ∧
  ∀ s : State, s.inp.mode = 1 → s.inp.fan = 3 → s.inp.targetC = .pair ⟨24, 1⟩ → s.inp.preset = 0 →
    s.inp.time.valid = false →
    Completes .build s (.frame #v[0x16, 0x22, 0, 0, 0, 0, 0x24, 0x10, 0, 0, 0x08, 0x75, 0, 0, 0, 0x40])

/-- R153: VALIDATE's three tests in their order, on the nibbles as received; nothing else is checked. -/
def Obligations.ValidateTests : Prop :=
  encode .validate = 0x03 ∧
  (∀ s : State, s.inp.frame[0] ≠ 0x16 → Rejects .validate s (.header s.inp.frame[0])) ∧
  (∀ s : State, s.inp.frame[0] = 0x16 → hi4 s.inp.frame[7] ≠ cksum1 s.inp.frame →
    Rejects .validate s (.cksum1 (hi4 s.inp.frame[7]) (cksum1 s.inp.frame))) ∧
  (∀ s : State, s.inp.frame[0] = 0x16 → hi4 s.inp.frame[7] = cksum1 s.inp.frame →
    hi4 s.inp.frame[15] ≠ cksum2 s.inp.frame →
    Rejects .validate s (.cksum2 (hi4 s.inp.frame[15]) (cksum2 s.inp.frame))) ∧
  (∀ s : State, s.inp.frame[0] = 0x16 → hi4 s.inp.frame[7] = cksum1 s.inp.frame →
    hi4 s.inp.frame[15] = cksum2 s.inp.frame →
    Completes .validate s .valid ∧ ∃ t, exec .validate s = .next t ∧ t.publish = false) ∧
  (∀ s : State, Rejects .validate (s.withFrame (Vector.replicate 16 0x00)) (.header 0x00)) ∧
  (∀ s : State, Completes .validate (s.withFrame #v[0x16, 0, 0, 0, 0, 0, 0, 0x70, 0, 0, 0, 0, 0, 0, 0, 0]) .valid) ∧
  ∀ s : State, Completes .validate
    (s.withFrame #v[0x16, 0x22, 0, 0, 0, 0, 0x24, 0x10, 0, 0, 0x08, 0x75, 0, 0, 0, 0x40]) .valid

/-- R154: PARSE; VALIDATE's rejects are its own, and on OK power governs the mode, the other fields are decoded whatever
the power, and PUBLISH is 1. -/
def Obligations.ParseDecodes : Prop :=
  encode .parse = 0x02 ∧
  (∀ (s : State) (e : Reject), Rejects .validate s e → Rejects .parse s e) ∧
  (∀ s : State, Completes .validate s .valid →
    ∃ t, exec .parse s = .next t ∧ t.status = .ok ∧ t.publish = true ∧ t.faulted = s.faulted ∧
      t.result = .decoded
        { power := if lo4 s.inp.frame[10] = 0xC then .off else .on
          mode := if lo4 s.inp.frame[10] = 0xC then .off else modeDec (lo4 s.inp.frame[1])
          fan := fanDec (hi4 s.inp.frame[1])
          targetC := bcdDec s.inp.frame[6]
          preset := presetDec s.inp.frame[7] s.inp.frame[12] }) ∧
  ∀ s : State, Completes .parse
    (s.withFrame #v[0x16, 0x22, 0, 0, 0, 0, 0x24, 0x10, 0, 0, 0x08, 0x75, 0, 0, 0, 0x40])
    (.decoded ⟨.on, .cool, .high, 24, .none⟩)

/-- Every single-bit error in a valid frame is rejected, with the cause that the bit's byte gives
(41_frame_builder_parser.md §8 "Single-bit error detection", the spec's own inference, "[derived: from rule R146, rule
R147, rule R148 and rule R153]"). -/
def Obligations.SingleBitErrorsRejected : Prop :=
  ∀ (s : State) (a : Fin 16) (k : Fin 8), Completes .validate s .valid →
    (a.val = 0 → ∃ b, Rejects .validate (s.withFrame (flipBit s.inp.frame a k)) (.header b)) ∧
    (1 ≤ a.val → a.val ≤ 7 →
      ∃ m n, Rejects .validate (s.withFrame (flipBit s.inp.frame a k)) (.cksum1 m n)) ∧
    (8 ≤ a.val → ∃ m n, Rejects .validate (s.withFrame (flipBit s.inp.frame a k)) (.cksum2 m n))

/-- PARSE of a built frame gives back the thermostat state, the temperature clamped and rounded
(41_frame_builder_parser.md §8 "Build-then-parse round trip", the spec's own inference, "[derived: from rule R150 and
rule R154]"). -/
def Obligations.BuildThenParse : Prop :=
  ∀ (s : State) (st : Thermo) (F : Frame), thermoOf s.inp = some st → Completes .build s (.frame F) →
    Completes .validate (s.withFrame F) .valid ∧
    Completes .parse (s.withFrame F) (.decoded
      { power := if st.mode = .off then .off else .on
        mode := st.mode
        fan := st.fan
        targetC := (roundQ (clampQ (ratOf st.targetC) 16 30)).toNat
        preset := st.preset })

/-- The power nibble governs the mode, for every value of the mode nibble (41_frame_builder_parser.md §8 "The power nibble
governs the mode", the spec's own inference, "[derived: from rule R154]"). -/
def Obligations.PowerGovernsMode : Prop :=
  ∀ s : State, Completes .validate s .valid → lo4 s.inp.frame[10] = 0xC →
    ∃ d, Completes .parse s (.decoded d) ∧ d.mode = .off ∧ d.power = .off

/-! ## The transmit path -/

/-- R190: EMIT_BITS, pulse by pulse. -/
def Obligations.EmitBitsPulses : Prop :=
  encode .emitBits = 0x20 ∧
  (∀ s : State, ∃ t p, exec .emitBits s = .next t ∧ t.status = .ok ∧ t.result = .pulses p ∧ t.ptOut = p ∧
    t.publish = false ∧ t.faulted = s.faulted ∧ (∀ a, t.fb.read a = 0x00) ∧ p.length = 128 ∧
    ∀ i j : Fin 8, p[2 * bitNo i j]? = some ⟨.mark, 340⟩ ∧
      p[2 * bitNo i j + 1]? = some ⟨.space, if s.inp.bytes[i].getLsbD j = true then 1000 else 400⟩) ∧
  emitByte 0x00 = (List.replicate 8 [⟨.mark, 340⟩, ⟨.space, 400⟩]).flatten ∧
  emitByte 0xFF = (List.replicate 8 [⟨.mark, 340⟩, ⟨.space, 1000⟩]).flatten ∧
  (emitByte 0x16).filter (fun p => decide (p.level = .space)) =
    [400, 1000, 1000, 400, 1000, 400, 400, 400].map (fun d => ⟨.space, d⟩)

/-- R191: ENCODE, the eight grammar elements in order, with the carrier; no frame is refused. -/
def Obligations.EncodeElements : Prop :=
  encode .encode = 0x04 ∧
  (∀ s : State, ∃ t, exec .encode s = .next t ∧ t.status = .ok ∧ t.publish = false ∧ t.faulted = s.faulted ∧
    t.result = .train t.ptOut 38000 ∧ t.ptOut.length = 267 ∧
    t.ptOut = [⟨.mark, 4600⟩, ⟨.space, 2600⟩] ++ emitBits (section1 s.inp.frame) ++
      [⟨.mark, 340⟩, ⟨.space, 20600⟩, ⟨.mark, 4600⟩, ⟨.space, 6700⟩, ⟨.mark, 9300⟩, ⟨.space, 5000⟩] ++
      emitBits (section2 s.inp.frame) ++ [⟨.mark, 340⟩, ⟨.space, 20600⟩, ⟨.mark, 4600⟩]) ∧
  ∀ F : Frame, F = #v[0x16, 0x22, 0, 0, 0, 0, 0x24, 0x10, 0, 0, 0x08, 0x75, 0, 0, 0, 0x40] →
    (encodeTrain F).take 4 = [⟨.mark, 4600⟩, ⟨.space, 2600⟩, ⟨.mark, 340⟩, ⟨.space, 400⟩] ∧
    (encodeTrain F)[266]? = some ⟨.mark, 4600⟩ ∧ ((encodeTrain F).map Pulse.dur).sum = 183000

/-- R62: bit j of byte i is data bit 8 i + j of the train, least significant bit and byte 0 first, bits 0 to 63 in
section 1 and 64 to 127 in section 2 (the pulse indexes are those of 30_encoding.md §4). -/
def Obligations.DataBitOrder : Prop :=
  ∀ s : State, ∃ t, exec .encode s = .next t ∧
    ∀ (a : Fin 16) (j : Fin 8),
      t.ptOut[if a.val < 8 then 2 + 2 * (8 * a.val + j.val) else 136 + 2 * (8 * a.val + j.val - 64)]? =
        some ⟨.mark, 340⟩ ∧
      t.ptOut[if a.val < 8 then 3 + 2 * (8 * a.val + j.val) else 137 + 2 * (8 * a.val + j.val - 64)]? =
        some ⟨.space, if s.inp.frame[a].getLsbD j = true then 1000 else 400⟩

/-- The shape of every encoded train (42_pulse_codec.md §1 "Shape of an encoded train", the spec's own inference,
"[derived: from rule R190 and rule R191]"). -/
def Obligations.TrainShape : Prop :=
  ∀ (s : State) (p : List Pulse) (c : Nat), Completes .encode s (.train p c) →
    p.length = 267 ∧
    (∀ k, k < 267 → ∃ d, p[k]? = some ⟨if k % 2 = 0 then .mark else .space, d⟩) ∧
    (p.filter fun q => decide (q.level = .mark)).length = 134 ∧
    (p.filter fun q => decide (q.level = .space)).length = 133 ∧
    ∀ (s' : State) (p' : List Pulse) (c' k : Nat), Completes .encode s' (.train p' c') →
      ¬ (k % 2 = 1 ∧ (3 ≤ k ∧ k ≤ 129 ∨ 137 ≤ k ∧ k ≤ 263)) → p[k]? = p'[k]?

/-- The airtime of every encoded train (42_pulse_codec.md §1 "Airtime of an encoded train", the spec's own inference,
"[derived: from rule R191]"). -/
def Obligations.TrainAirtime : Prop :=
  ∀ (s : State) (p : List Pulse) (c : Nat), Completes .encode s (.train p c) →
    (p.map Pulse.dur).sum = 174000 + 600 * onesOf s.inp.frame ∧ onesOf s.inp.frame ≤ 128

/-! ## The receive path -/

/-- R194: EXPECT_MARK. -/
def Obligations.ExpectMarkChecks : Prop :=
  encode .expectMark = 0x21 ∧
  (∀ (s : State) (p : Pulse), s.inp.ptIn[s.inp.cur]? = some p → p.level = .mark →
    tolMatch s.tol .mark s.inp.markDur p.dur = true → ChecksTo .expectMark s true (s.inp.cur + 1)) ∧
  (∀ (s : State) (p : Pulse), s.inp.ptIn[s.inp.cur]? = some p →
    p.level = .space ∨ tolMatch s.tol .mark s.inp.markDur p.dur = false → ChecksTo .expectMark s false s.inp.cur) ∧
  (∀ s : State, s.inp.ptIn.length ≤ s.inp.cur → ChecksTo .expectMark s false s.inp.cur) ∧
  checkMark exactTol [⟨.mark, 4600⟩] 0 4600 = (true, 1)

/-- EXPECT_SPACE (42_pulse_codec.md §2, "check for a space of duration D"). -/
def Obligations.ExpectSpaceChecks : Prop :=
  encode .expectSpace = 0x22 ∧
  (∀ (s : State) (p : Pulse), s.inp.ptIn[s.inp.cur]? = some p → p.level = .space →
    tolMatch s.tol .space s.inp.spaceDur p.dur = true → ChecksTo .expectSpace s true (s.inp.cur + 1)) ∧
  (∀ (s : State) (p : Pulse), s.inp.ptIn[s.inp.cur]? = some p →
    p.level = .mark ∨ tolMatch s.tol .space s.inp.spaceDur p.dur = false → ChecksTo .expectSpace s false s.inp.cur) ∧
  (∀ s : State, s.inp.ptIn.length ≤ s.inp.cur → ChecksTo .expectSpace s false s.inp.cur) ∧
  checkSpace exactTol [⟨.space, 2600⟩] 0 2600 = (true, 1)

/-- R196: EXPECT_PAIR, all or nothing. -/
def Obligations.ExpectPairChecks : Prop :=
  encode .expectPair = 0x23 ∧
  (∀ (s : State) (p q : Pulse), s.inp.ptIn[s.inp.cur]? = some p → s.inp.ptIn[s.inp.cur + 1]? = some q →
    p.level = .mark → tolMatch s.tol .mark s.inp.markDur p.dur = true →
    q.level = .space → tolMatch s.tol .space s.inp.spaceDur q.dur = true →
    ChecksTo .expectPair s true (s.inp.cur + 2)) ∧
  (∀ (s : State) (p q : Pulse), s.inp.ptIn[s.inp.cur]? = some p → s.inp.ptIn[s.inp.cur + 1]? = some q →
    p.level = .space ∨ tolMatch s.tol .mark s.inp.markDur p.dur = false ∨
      q.level = .mark ∨ tolMatch s.tol .space s.inp.spaceDur q.dur = false →
    ChecksTo .expectPair s false s.inp.cur) ∧
  (∀ s : State, s.inp.ptIn.length ≤ s.inp.cur + 1 → ChecksTo .expectPair s false s.inp.cur) ∧
  checkPair exactTol [⟨.mark, 340⟩, ⟨.space, 400⟩] 0 340 1000 = (false, 0) ∧
  checkPair exactTol [⟨.mark, 340⟩, ⟨.space, 400⟩] 0 340 400 = (true, 2)

/-- R197: DECODE_BIT; the 1 symbol goes first, so a capture that matches both reads as 1. Inside DECODE a reject names
the position it is given. -/
def Obligations.DecodeBitReads : Prop :=
  encode .decodeBit = 0x24 ∧
  (∀ s : State, PairAt (tolMatch s.tol) s.inp.ptIn s.inp.cur 340 1000 →
    CompletesPlain .decodeBit s (.bit true (s.inp.cur + 2))) ∧
  (∀ s : State, ¬ PairAt (tolMatch s.tol) s.inp.ptIn s.inp.cur 340 1000 →
    PairAt (tolMatch s.tol) s.inp.ptIn s.inp.cur 340 400 →
    CompletesPlain .decodeBit s (.bit false (s.inp.cur + 2))) ∧
  (∀ s : State, NoBitAt (tolMatch s.tol) s.inp.ptIn s.inp.cur →
    Rejects .decodeBit s (.pulse ⟨0, 0, 0⟩ s.inp.cur)) ∧
  (∀ (tol : Tol) (pt : List Pulse) (d : Dpc) (k : Nat), NoBitAt tol pt k → readBit tol pt d k = .error (.pulse d k)) ∧
  (∀ (tol : Tol) (pt : List Pulse) (k : Nat), pt[k]? = some ⟨.mark, 340⟩ → pt[k + 1]? = some ⟨.space, 20600⟩ →
    tol .space 1000 20600 = false → tol .space 400 20600 = false → NoBitAt tol pt k) ∧
  readBit exactTol [⟨.mark, 340⟩, ⟨.space, 1000⟩] ⟨0, 0, 0⟩ 0 = .ok (true, 2)

/-- R198: CONSUME_BITS; the bits in order, the first one read into bit 0 of byte 0, and a reject at the first position
that reads as no bit. -/
def Obligations.ConsumeBitsReads : Prop :=
  encode .consumeBits = 0x25 ∧
  (∀ (s : State) (B : Section8),
    (∀ i j : Fin 8, BitAt (tolMatch s.tol) s.inp.ptIn (s.inp.cur + 2 * bitNo i j) (B[i].getLsbD j)) →
    CompletesPlain .consumeBits s (.bytes B (s.inp.cur + 128))) ∧
  (∀ (s : State) (i j : Fin 8),
    (∀ i' j' : Fin 8, bitNo i' j' < bitNo i j →
      ∃ b, BitAt (tolMatch s.tol) s.inp.ptIn (s.inp.cur + 2 * bitNo i' j') b) →
    NoBitAt (tolMatch s.tol) s.inp.ptIn (s.inp.cur + 2 * bitNo i j) →
    Rejects .consumeBits s (.pulse ⟨0, i, j⟩ (s.inp.cur + 2 * bitNo i j))) ∧
  readByte exactTol (emitByte 0x16) 0 0 idx8 0x00 0 = .ok (0x16, 16)

/-- R199: DECODE gives the frame that the capture carries where every position matches, and otherwise the one
reject of the first position that does not, with its position and pulse index. -/
def Obligations.DecodeFollowsGrammar : Prop :=
  encode .decode = 0x05 ∧
  (∀ (s : State) (F : Frame), CarriesFrame (tolMatch s.tol) s.inp.ptIn F →
    Completes .decode s (.frame F) ∧ ∃ t, exec .decode s = .next t ∧ t.publish = false) ∧
  (∀ (s : State) (d : Dpc), FirstMismatch (tolMatch s.tol) s.inp.ptIn d →
    Rejects .decode s (.pulse d (posCur d))) ∧
  (∀ s : State, (∃ F, CarriesFrame (tolMatch s.tol) s.inp.ptIn F) ∨
    ∃ d, FirstMismatch (tolMatch s.tol) s.inp.ptIn d) ∧
  (∀ s : State, s.inp.ptIn = [] → Rejects .decode s (.pulse ⟨0, 0, 0⟩ 0)) ∧
  ∀ (s : State) (F : Frame), TL1 (tolMatch s.tol) → TL2 (tolMatch s.tol) →
    Completes .decode (s.withTrain (encodeTrain F)) (.frame F) ∧
    Rejects .decode (s.withTrain ((encodeTrain F).take 132)) (.pulse ⟨3, 0, 0⟩ 132) ∧
    (F = Vector.replicate 16 0x00 → Rejects .validate (s.withFrame F) (.header 0x00))

/-- R202: pulses after the final mark are ignored: the outcome on a capture is that on its first 267 pulses. -/
def Obligations.TrailingPulsesIgnored : Prop :=
  ∀ s : State, ∃ t t', exec .decode s = .next t ∧ exec .decode (s.withTrain (s.inp.ptIn.take 267)) = .next t' ∧
    t'.status = t.status ∧ t'.result = t.result ∧ t'.cur = t.cur ∧ t'.dpc = t.dpc

/-- DECODE of an encoded train gives the frame back, for every frame and every tolerance that meets TL1 and TL2
(42_pulse_codec.md §4 "Pulse round trip", the spec's own inference, "[derived: from rule R191, rule R197 and rule
R199]"). -/
def Obligations.PulseRoundTrip : Prop :=
  ∀ (s : State) (p : List Pulse) (c : Nat), TL1 (tolMatch s.tol) → TL2 (tolMatch s.tol) →
    Completes .encode s (.train p c) → Completes .decode (s.withTrain p) (.frame s.inp.frame)

/-- A train whose section-2 header has section-1 timing is rejected there, for every tolerance that meets TL1 and TL3
(42_pulse_codec.md §4 "Header-2 rejection", the spec's own inference, "[derived: from rule R199]"). -/
def Obligations.HeaderTwoRejected : Prop :=
  ∀ (s : State) (p : List Pulse) (c : Nat), TL1 (tolMatch s.tol) → TL3 (tolMatch s.tol) →
    Completes .encode s (.train p c) →
    Rejects .decode (s.withTrain ((p.set 134 ⟨.mark, 4600⟩).set 135 ⟨.space, 2600⟩)) (.pulse ⟨4, 0, 0⟩ 134)

/-- A capture shorter than a whole train is rejected, and one cut before the section gap ends at element 2 at the latest
(70_reset_and_hazards.md §3, the spec's own inference, "[derived: from 42_pulse_codec.md rules R192 and R199]"). -/
def Obligations.ShortCaptureRejected : Prop :=
  (∀ s : State, s.inp.ptIn.length < 267 → ∃ d k, Rejects .decode s (.pulse d k)) ∧
  ∀ s : State, s.inp.ptIn.length ≤ 131 → ∃ d k, Rejects .decode s (.pulse d k) ∧ d.e.val ≤ 2

/-! ## The caller's programs -/

/-- TX then RX gives back the thermostat state, published and with no fault of its own, for every tolerance that meets
TL1 and TL2 (30_encoding.md §6; the laws are 00_scope.md §3). It rests on two of the spec's own inferences: the
build-then-parse round trip (41_frame_builder_parser.md §8, "[derived: from rule R150 and rule R154]") and the pulse round
trip (42_pulse_codec.md §4, "[derived: from rule R191, rule R197 and rule R199]"). The caller around the codec is log
entry 16. -/
def Obligations.TransmitThenReceive : Prop :=
  ∀ (c : Caller) (p f r g : Nat) (m : BitVec 3) (fan : BitVec 2) (q : TempPort) (ps : BitVec 2) (tm : TimePort)
    (st : Thermo),
    TL1 (tolMatch c.codec.tol) → TL2 (tolMatch c.codec.tol) →
    thermoOf { c.codec.inp with mode := m, fan := fan, targetC := q, preset := ps } = some st →
    ∃ c', runProgram c (txLines p f (.lit (.thermo m fan q ps)) (.lit (.time tm)) ++ rxLines r g (.name p)) =
        .going c' ∧
      c'.value (.name r) = some (.decoded
        { power := if st.mode = .off then .off else .on
          mode := st.mode
          fan := st.fan
          targetC := (roundQ (clampQ (ratOf st.targetC) 16 30)).toNat
          preset := st.preset }) ∧
      c'.codec.status = .ok ∧ c'.codec.publish = true ∧ c'.codec.faulted = c.codec.faulted

/-- If DECODE rejects, RX ends with that reject and binds nothing: PARSE does not run (30_encoding.md §6; log
entry 16). -/
def Obligations.ReceiveStopsAtReject : Prop :=
  ∀ (c : Caller) (r g : Nat) (p : List Pulse) (e : Reject), Rejects .decode (c.codec.withTrain p) e →
    ∃ c', runProgram c (rxLines r g (.lit (.pulses p))) = .ended c' ∧ c'.codec.status = .reject e ∧
      c'.held = c.held ∧ c'.codec.publish = false ∧ c'.codec.faulted = c.codec.faulted

/-! ## PARSE on the frame alone -/

/-- R154: PARSE, with every condition on the frame alone: the three tests of VALIDATE in their order with their rejects,
and else PARSE completes with the decoded state, PUBLISH 1 and no pulse. -/
def Obligations.ParseCompletes : Prop :=
  encode .parse = 0x02 ∧
  (∀ s : State, s.inp.frame[0] ≠ 0x16 → Rejects .parse s (.header s.inp.frame[0])) ∧
  (∀ s : State, s.inp.frame[0] = 0x16 → hi4 s.inp.frame[7] ≠ cksum1 s.inp.frame →
    Rejects .parse s (.cksum1 (hi4 s.inp.frame[7]) (cksum1 s.inp.frame))) ∧
  (∀ s : State, s.inp.frame[0] = 0x16 → hi4 s.inp.frame[7] = cksum1 s.inp.frame →
    hi4 s.inp.frame[15] ≠ cksum2 s.inp.frame →
    Rejects .parse s (.cksum2 (hi4 s.inp.frame[15]) (cksum2 s.inp.frame))) ∧
  (∀ s : State, s.inp.frame[0] = 0x16 → hi4 s.inp.frame[7] = cksum1 s.inp.frame →
    hi4 s.inp.frame[15] = cksum2 s.inp.frame →
    ∃ t, exec .parse s = .next t ∧ t.status = .ok ∧ t.publish = true ∧ t.faulted = s.faulted ∧ t.ptOut = [] ∧
      SameInputs s t ∧
      t.result = .decoded
        { power := if lo4 s.inp.frame[10] = 0xC then .off else .on
          mode := if lo4 s.inp.frame[10] = 0xC then .off else modeDec (lo4 s.inp.frame[1])
          fan := fanDec (hi4 s.inp.frame[1])
          targetC := bcdDec s.inp.frame[6]
          preset := if s.inp.frame[12].getLsbD 2 = true then .eco
            else if s.inp.frame[7].getLsbD 1 = true then .sleep else .none }) ∧
  ∀ s : State, s.inp.frame = #v[0x16, 0x22, 0, 0, 0, 0, 0x24, 0x10, 0, 0, 0x08, 0x75, 0, 0, 0, 0x40] →
    Completes .parse s (.decoded ⟨.on, .cool, .high, 24, .none⟩)
end

