-- ==== Sys2Proof/Laws/Memory.lean ====
section
/-!
SUPPORT. The laws of the frame buffer's memory: a read after a write, the canonical form kept by every operation, equal
reads make equal memories, and a frame read back from the buffer it was put in.
-/

namespace Sys2Proof.Machine

@[simp] theorem Memory.read_nil (a : Fin 16) : Memory.read [] a = 0 := rfl

@[simp] theorem Memory.wf_nil : Memory.wf [] = true := rfl

/-- The canonical form of a list with a first entry. -/
theorem Memory.wf_cons {k : Nat} {v : Byte} {r : Memory} :
    Memory.wf ((k, v) :: r) = true ↔ k < 16 ∧ v ≠ 0 ∧ (∀ c ∈ r, k < c.1) ∧ Memory.wf r = true := by
  simp [Memory.wf, and_assoc]

/-- An address below every listed one reads 0x00. -/
theorem Memory.read_below {m : Memory} {a : Fin 16} (h : ∀ c ∈ m, a.val < c.1) : m.read a = 0 := by
  induction m with
  | nil => rfl
  | cons c r ih =>
    obtain ⟨k, v⟩ := c
    have hk : a.val < k := h (k, v) (by simp)
    have : ¬ k = a.val := by omega
    simp only [Memory.read, this, if_false]
    exact ih fun c hc => h c (by simp [hc])

/-- The entries of a memory after a write are the written one or entries of before. -/
theorem Memory.mem_write {m : Memory} {a : Fin 16} {v : Byte} {c : Host.Cell} (h : c ∈ m.write a v) :
    c = (a.val, v) ∨ c ∈ m := by
  induction m with
  | nil =>
    simp only [Memory.write] at h
    split at h
    · simp at h
    · simpa using h
  | cons d r ih =>
    obtain ⟨k, w⟩ := d
    simp only [Memory.write] at h
    split at h
    · split at h
      · exact .inr h
      · simpa using h
    · split at h
      · split at h
        · simp [h]
        · rcases List.mem_cons.mp h with rfl | h
          · exact .inl rfl
          · simp [h]
      · rcases List.mem_cons.mp h with rfl | h
        · simp
        · rcases ih h with rfl | h
          · exact .inl rfl
          · simp [h]

/-- Every write keeps the canonical form. -/
theorem Memory.wf_write {m : Memory} (a : Fin 16) (v : Byte) (h : m.wf = true) : (m.write a v).wf = true := by
  induction m with
  | nil =>
    by_cases hv : v = 0
    · simp [Memory.write, hv]
    · simp only [Memory.write, hv, if_false]
      exact Memory.wf_cons.mpr ⟨a.isLt, hv, by simp, rfl⟩
  | cons d r ih =>
    obtain ⟨k, w⟩ := d
    obtain ⟨hk, hw, hr, hwf⟩ := Memory.wf_cons.mp h
    simp only [Memory.write]
    split
    · rename_i hlt
      split
      · exact h
      · rename_i hv
        refine Memory.wf_cons.mpr ⟨a.isLt, hv, ?_, h⟩
        intro c hc
        rcases List.mem_cons.mp hc with rfl | hc
        · exact hlt
        · exact lt_trans hlt (hr c hc)
    · split
      · rename_i heq
        split
        · exact hwf
        · rename_i hv
          exact Memory.wf_cons.mpr ⟨a.isLt, hv, fun c hc => heq ▸ hr c hc, hwf⟩
      · rename_i hlt hne
        refine Memory.wf_cons.mpr ⟨hk, hw, ?_, ih hwf⟩
        intro c hc
        rcases Memory.mem_write hc with rfl | hc
        · show k < a.val
          omega
        · exact hr c hc

/-- A read after a write: the written byte at its address, the old byte at every other one. -/
theorem Memory.read_write {m : Memory} (a b : Fin 16) (v : Byte) (h : m.wf = true) :
    (m.write a v).read b = if b = a then v else m.read b := by
  induction m with
  | nil =>
    by_cases hv : v = 0 <;> by_cases hb : b = a
    · simp [Memory.write, hv]
    · simp [Memory.write, hv]
    · simp only [Memory.write, hv, if_false]
      simp [Memory.read, hb]
    · have : ¬ a.val = b.val := fun e => hb (Fin.ext e.symm)
      simp only [Memory.write, hv, if_false]
      simp [Memory.read, hb, this]
  | cons d r ih =>
    obtain ⟨k, w⟩ := d
    obtain ⟨hk, hw, hr, hwf⟩ := Memory.wf_cons.mp h
    simp only [Memory.write]
    split
    · rename_i hlt
      have below : ∀ c ∈ (k, w) :: r, a.val < c.1 := by
        intro c hc
        rcases List.mem_cons.mp hc with rfl | hc
        · exact hlt
        · exact lt_trans hlt (hr c hc)
      split
      · rename_i hv
        by_cases hb : b = a
        · subst hb
          simp [Memory.read_below below, hv]
        · simp [hb]
      · by_cases hb : b = a
        · simp [Memory.read, hb]
        · have : ¬ a.val = b.val := fun e => hb (Fin.ext e.symm)
          simp [Memory.read, hb, this]
    · split
      · rename_i heq
        by_cases hb : b = a
        · subst hb
          split
          · rename_i hv
            simp [Memory.read_below (fun c hc => heq ▸ hr c hc), hv]
          · simp [Memory.read]
        · have hne : ¬ a.val = b.val := fun e => hb (Fin.ext e.symm)
          have hkb : ¬ k = b.val := by omega
          split <;> simp [Memory.read, hkb, hne]
      · rename_i hlt hne
        simp only [Memory.read, ih hwf]
        by_cases hb : b = a
        · subst hb
          simp [hne]
        · simp [hb]

/-- Two canonical memories that read alike are equal. -/
theorem Memory.ext_read {m n : Memory} (hm : m.wf = true) (hn : n.wf = true)
    (h : ∀ a, m.read a = n.read a) : m = n := by
  induction m generalizing n with
  | nil =>
    cases n with
    | nil => rfl
    | cons d r =>
      obtain ⟨k, v⟩ := d
      obtain ⟨hk, hv, -, -⟩ := Memory.wf_cons.mp hn
      have := h ⟨k, hk⟩
      simp [Memory.read] at this
      exact absurd this.symm hv
  | cons d r ih =>
    obtain ⟨k, v⟩ := d
    obtain ⟨hk, hv, hr, hwf⟩ := Memory.wf_cons.mp hm
    cases n with
    | nil =>
      have := h ⟨k, hk⟩
      simp [Memory.read] at this
      exact absurd this hv
    | cons d' r' =>
      obtain ⟨k', v'⟩ := d'
      obtain ⟨hk', hv', hr', hwf'⟩ := Memory.wf_cons.mp hn
      have hkk : k = k' := by
        rcases Nat.lt_trichotomy k k' with hlt | heq | hgt
        · exfalso
          have h1 : Memory.read ((k, v) :: r) ⟨k, hk⟩ = v := by simp [Memory.read]
          have h2 : Memory.read ((k', v') :: r') ⟨k, hk⟩ = 0 := by
            apply Memory.read_below
            intro c hc
            rcases List.mem_cons.mp hc with rfl | hc
            · exact hlt
            · exact lt_trans hlt (hr' c hc)
          exact hv (by rw [← h1, h, h2])
        · exact heq
        · exfalso
          have h1 : Memory.read ((k', v') :: r') ⟨k', hk'⟩ = v' := by simp [Memory.read]
          have h2 : Memory.read ((k, v) :: r) ⟨k', hk'⟩ = 0 := by
            apply Memory.read_below
            intro c hc
            rcases List.mem_cons.mp hc with rfl | hc
            · exact hgt
            · exact lt_trans hgt (hr c hc)
          exact hv' (by rw [← h1, ← h, h2])
      subst hkk
      have hvv : v = v' := by simpa [Memory.read] using h ⟨k, hk⟩
      subst hvv
      have : r = r' := by
        apply ih hwf hwf'
        intro a
        by_cases ha : k = a.val
        · rw [Memory.read_below (fun c hc => ha ▸ hr c hc), Memory.read_below (fun c hc => ha ▸ hr' c hc)]
        · simpa [Memory.read, ha] using h a
      rw [this]

/-- A byte of the frame that the buffer holds is the buffer's byte. -/
@[simp] theorem Memory.toFrame_get (m : Memory) (a : Fin 16) : m.toFrame[a] = m.read a := by
  simp [Memory.toFrame]

/-- The cells of `f` at the addresses `as`, in their order, less those that hold 0x00. -/
def cellsAt (f : Frame) (as : List (Fin 16)) : Memory :=
  as.filterMap fun a => if (f[a] : Byte) = 0 then none else some (a.val, (f[a] : Byte))

/-- Cells at rising addresses are canonical and read as the frame at those addresses, as 0x00 elsewhere. -/
theorem cellsAt_spec (f : Frame) (as : List (Fin 16)) (h : as.Pairwise (· < ·)) :
    (cellsAt f as).wf = true ∧ (∀ c ∈ cellsAt f as, ∃ a ∈ as, c.1 = a.val) ∧
      ∀ b, (cellsAt f as).read b = if b ∈ as then f[b] else 0 := by
  induction as with
  | nil => simp [cellsAt]
  | cons a rest ih =>
    obtain ⟨hlt, hrest⟩ := List.pairwise_cons.mp h
    obtain ⟨hwf, hmem, hread⟩ := ih hrest
    have above : ∀ c ∈ cellsAt f rest, a.val < c.1 := by
      intro c hc
      obtain ⟨a', ha', he⟩ := hmem c hc
      rw [he]
      exact hlt a' ha'
    by_cases ha : f[a] = 0
    · have e : cellsAt f (a :: rest) = cellsAt f rest := by
        unfold cellsAt
        rw [List.filterMap_cons_none]
        rw [if_pos ha]
      rw [e]
      refine ⟨hwf, fun c hc => ?_, fun b => ?_⟩
      · obtain ⟨a', ha', he⟩ := hmem c hc
        exact ⟨a', by simp [ha'], he⟩
      · rw [hread]
        by_cases hb : b ∈ rest <;> by_cases hba : b = a
        · simp [hb]
        · simp [hb]
        · subst hba
          rw [if_neg hb, if_pos (by simp), ha]
        · simp [hb, hba]
    · have e : cellsAt f (a :: rest) = (a.val, f[a]) :: cellsAt f rest := by
        unfold cellsAt
        rw [List.filterMap_cons_some (b := (a.val, f[a]))]
        simp only [ha, if_false]
      rw [e]
      refine ⟨Memory.wf_cons.mpr ⟨a.isLt, ha, above, hwf⟩, fun c hc => ?_, fun b => ?_⟩
      · rcases List.mem_cons.mp hc with rfl | hc
        · exact ⟨a, by simp, rfl⟩
        · obtain ⟨a', ha', he⟩ := hmem c hc
          exact ⟨a', by simp [ha'], he⟩
      · by_cases hba : b = a
        · subst hba
          simp [Memory.read]
        · have hne : ¬ a.val = b.val := fun e => hba (Fin.ext e.symm)
          simp only [Memory.read, hne, if_false, hread, List.mem_cons, hba, false_or]

/-- The buffer of a frame is canonical. -/
@[simp] theorem Memory.wf_ofFrame (f : Frame) : (Memory.ofFrame f).wf = true :=
  (cellsAt_spec f frameIdx (by decide)).1

/-- The buffer of a frame reads as the frame. -/
@[simp] theorem Memory.read_ofFrame (f : Frame) (a : Fin 16) : (Memory.ofFrame f).read a = f[a] := by
  have hmem : a ∈ frameIdx := by revert a; decide
  have := (cellsAt_spec f frameIdx (by decide)).2.2 a
  rw [if_pos hmem] at this
  exact this

/-- A frame put into the buffer is the frame the buffer holds. -/
@[simp] theorem Memory.toFrame_ofFrame (f : Frame) : (Memory.ofFrame f).toFrame = f := by
  apply Vector.ext
  intro i hi
  have := Memory.toFrame_get (Memory.ofFrame f) ⟨i, hi⟩
  rw [Memory.read_ofFrame] at this
  simpa using this

/-- Placing a checksum nibble keeps the canonical form (R149). -/
theorem Memory.wf_placeHigh {m : Memory} (a : Fin 16) (c : Nibble) (h : m.wf = true) : (placeHigh m a c).wf = true :=
  Memory.wf_write a _ h

/-- Placing both checksums keeps the canonical form (R149). -/
theorem Memory.wf_placeChecksums {m : Memory} (h : m.wf = true) : (placeChecksums m).wf = true :=
  Memory.wf_placeHigh _ _ (Memory.wf_placeHigh _ _ h)

/-- BUILD's writes keep the canonical form (R150). -/
theorem Memory.wf_buildFields (st : Thermo) (tm : Option Clock) {m : Memory} (h : m.wf = true) :
    (buildFields st tm m).wf = true := by
  unfold buildFields
  iterate 16 apply Memory.wf_write
  exact h

/-- BUILD's buffer is canonical (R150). -/
theorem Memory.wf_buildBuffer (st : Thermo) (tm : Option Clock) : (buildBuffer st tm).wf = true :=
  Memory.wf_placeChecksums (Memory.wf_buildFields st tm rfl)

end Sys2Proof.Machine
end

