-- ==== Sys2Proof/Laws/State.lean ====
section
/-!
SUPPORT. What each update of the state leaves in each field: one lemma per field and update, each true by unfolding,
so that no proof unfolds an update again.
-/

namespace Sys2Proof.Machine

/-! ## The start of an operation (R46) -/

@[simp] theorem State.start_op (s : State) : s.start.op = s.op := rfl
@[simp] theorem State.start_inp (s : State) : s.start.inp = s.inp := rfl
@[simp] theorem State.start_tol (s : State) : s.start.tol = s.tol := rfl
@[simp] theorem State.start_fb (s : State) : s.start.fb = [] := rfl
@[simp] theorem State.start_ptOut (s : State) : s.start.ptOut = [] := rfl
@[simp] theorem State.start_cur (s : State) : s.start.cur = 0 := rfl
@[simp] theorem State.start_dpc (s : State) : s.start.dpc = ⟨0, 0, 0⟩ := rfl
@[simp] theorem State.start_status (s : State) : s.start.status = .ok := rfl
@[simp] theorem State.start_publish (s : State) : s.start.publish = false := rfl
@[simp] theorem State.start_faulted (s : State) : s.start.faulted = s.faulted := rfl
@[simp] theorem State.start_result (s : State) : s.start.result = .absent := rfl

/-! ## Writing FB (R60) -/

@[simp] theorem State.putFb_op (s : State) (m : Memory) : (s.putFb m).op = s.op := rfl
@[simp] theorem State.putFb_inp (s : State) (m : Memory) : (s.putFb m).inp = s.inp := rfl
@[simp] theorem State.putFb_tol (s : State) (m : Memory) : (s.putFb m).tol = s.tol := rfl
@[simp] theorem State.putFb_fb (s : State) (m : Memory) : (s.putFb m).fb = m := rfl
@[simp] theorem State.putFb_ptOut (s : State) (m : Memory) : (s.putFb m).ptOut = s.ptOut := rfl
@[simp] theorem State.putFb_cur (s : State) (m : Memory) : (s.putFb m).cur = s.cur := rfl
@[simp] theorem State.putFb_dpc (s : State) (m : Memory) : (s.putFb m).dpc = s.dpc := rfl
@[simp] theorem State.putFb_status (s : State) (m : Memory) : (s.putFb m).status = s.status := rfl
@[simp] theorem State.putFb_publish (s : State) (m : Memory) : (s.putFb m).publish = s.publish := rfl
@[simp] theorem State.putFb_faulted (s : State) (m : Memory) : (s.putFb m).faulted = s.faulted := rfl
@[simp] theorem State.putFb_result (s : State) (m : Memory) : (s.putFb m).result = s.result := rfl

/-! ## Appending to PT_OUT (R68) -/

@[simp] theorem State.appendOut_op (s : State) (p : List Pulse) : (s.appendOut p).op = s.op := rfl
@[simp] theorem State.appendOut_inp (s : State) (p : List Pulse) : (s.appendOut p).inp = s.inp := rfl
@[simp] theorem State.appendOut_tol (s : State) (p : List Pulse) : (s.appendOut p).tol = s.tol := rfl
@[simp] theorem State.appendOut_fb (s : State) (p : List Pulse) : (s.appendOut p).fb = s.fb := rfl
@[simp] theorem State.appendOut_ptOut (s : State) (p : List Pulse) : (s.appendOut p).ptOut = s.ptOut ++ p := rfl
@[simp] theorem State.appendOut_cur (s : State) (p : List Pulse) : (s.appendOut p).cur = s.cur := rfl
@[simp] theorem State.appendOut_dpc (s : State) (p : List Pulse) : (s.appendOut p).dpc = s.dpc := rfl
@[simp] theorem State.appendOut_status (s : State) (p : List Pulse) : (s.appendOut p).status = s.status := rfl
@[simp] theorem State.appendOut_publish (s : State) (p : List Pulse) : (s.appendOut p).publish = s.publish := rfl
@[simp] theorem State.appendOut_faulted (s : State) (p : List Pulse) : (s.appendOut p).faulted = s.faulted := rfl
@[simp] theorem State.appendOut_result (s : State) (p : List Pulse) : (s.appendOut p).result = s.result := rfl

/-! ## The receive path's position (R37, R38) -/

@[simp] theorem State.putPos_op (s : State) (c : Nat) (d : Dpc) : (s.putPos c d).op = s.op := rfl
@[simp] theorem State.putPos_inp (s : State) (c : Nat) (d : Dpc) : (s.putPos c d).inp = s.inp := rfl
@[simp] theorem State.putPos_tol (s : State) (c : Nat) (d : Dpc) : (s.putPos c d).tol = s.tol := rfl
@[simp] theorem State.putPos_fb (s : State) (c : Nat) (d : Dpc) : (s.putPos c d).fb = s.fb := rfl
@[simp] theorem State.putPos_ptOut (s : State) (c : Nat) (d : Dpc) : (s.putPos c d).ptOut = s.ptOut := rfl
@[simp] theorem State.putPos_cur (s : State) (c : Nat) (d : Dpc) : (s.putPos c d).cur = c := rfl
@[simp] theorem State.putPos_dpc (s : State) (c : Nat) (d : Dpc) : (s.putPos c d).dpc = d := rfl
@[simp] theorem State.putPos_status (s : State) (c : Nat) (d : Dpc) : (s.putPos c d).status = s.status := rfl
@[simp] theorem State.putPos_publish (s : State) (c : Nat) (d : Dpc) : (s.putPos c d).publish = s.publish := rfl
@[simp] theorem State.putPos_faulted (s : State) (c : Nat) (d : Dpc) : (s.putPos c d).faulted = s.faulted := rfl
@[simp] theorem State.putPos_result (s : State) (c : Nat) (d : Dpc) : (s.putPos c d).result = s.result := rfl

/-! ## Raising PUBLISH (R42) -/

@[simp] theorem State.raisePublish_op (s : State) : s.raisePublish.op = s.op := rfl
@[simp] theorem State.raisePublish_inp (s : State) : s.raisePublish.inp = s.inp := rfl
@[simp] theorem State.raisePublish_tol (s : State) : s.raisePublish.tol = s.tol := rfl
@[simp] theorem State.raisePublish_fb (s : State) : s.raisePublish.fb = s.fb := rfl
@[simp] theorem State.raisePublish_ptOut (s : State) : s.raisePublish.ptOut = s.ptOut := rfl
@[simp] theorem State.raisePublish_cur (s : State) : s.raisePublish.cur = s.cur := rfl
@[simp] theorem State.raisePublish_dpc (s : State) : s.raisePublish.dpc = s.dpc := rfl
@[simp] theorem State.raisePublish_status (s : State) : s.raisePublish.status = s.status := rfl
@[simp] theorem State.raisePublish_publish (s : State) : s.raisePublish.publish = true := rfl
@[simp] theorem State.raisePublish_faulted (s : State) : s.raisePublish.faulted = s.faulted := rfl
@[simp] theorem State.raisePublish_result (s : State) : s.raisePublish.result = s.result := rfl

/-! ## The start of an operation with a frame operand (R32, R46) -/

@[simp] theorem State.startFrame_op (s : State) : s.startFrame.op = s.op := rfl
@[simp] theorem State.startFrame_inp (s : State) : s.startFrame.inp = s.inp := rfl
@[simp] theorem State.startFrame_tol (s : State) : s.startFrame.tol = s.tol := rfl
@[simp] theorem State.startFrame_fb (s : State) : s.startFrame.fb = Memory.ofFrame s.inp.frame := rfl
@[simp] theorem State.startFrame_ptOut (s : State) : s.startFrame.ptOut = [] := rfl
@[simp] theorem State.startFrame_cur (s : State) : s.startFrame.cur = 0 := rfl
@[simp] theorem State.startFrame_dpc (s : State) : s.startFrame.dpc = ⟨0, 0, 0⟩ := rfl
@[simp] theorem State.startFrame_status (s : State) : s.startFrame.status = .ok := rfl
@[simp] theorem State.startFrame_publish (s : State) : s.startFrame.publish = false := rfl
@[simp] theorem State.startFrame_faulted (s : State) : s.startFrame.faulted = s.faulted := rfl
@[simp] theorem State.startFrame_result (s : State) : s.startFrame.result = .absent := rfl

/-! ## The start of an operation with a cursor operand (R46) -/

@[simp] theorem State.startCur_op (s : State) : s.startCur.op = s.op := rfl
@[simp] theorem State.startCur_inp (s : State) : s.startCur.inp = s.inp := rfl
@[simp] theorem State.startCur_tol (s : State) : s.startCur.tol = s.tol := rfl
@[simp] theorem State.startCur_fb (s : State) : s.startCur.fb = [] := rfl
@[simp] theorem State.startCur_ptOut (s : State) : s.startCur.ptOut = [] := rfl
@[simp] theorem State.startCur_cur (s : State) : s.startCur.cur = s.inp.cur := rfl
@[simp] theorem State.startCur_dpc (s : State) : s.startCur.dpc = ⟨0, 0, 0⟩ := rfl
@[simp] theorem State.startCur_status (s : State) : s.startCur.status = .ok := rfl
@[simp] theorem State.startCur_publish (s : State) : s.startCur.publish = false := rfl
@[simp] theorem State.startCur_faulted (s : State) : s.startCur.faulted = s.faulted := rfl
@[simp] theorem State.startCur_result (s : State) : s.startCur.result = .absent := rfl

/-! ## An operation that ends with a result (R39) -/

@[simp] theorem State.finish_op (s : State) (r : Result) : (s.finish r).op = s.op := rfl
@[simp] theorem State.finish_inp (s : State) (r : Result) : (s.finish r).inp = s.inp := rfl
@[simp] theorem State.finish_tol (s : State) (r : Result) : (s.finish r).tol = s.tol := rfl
@[simp] theorem State.finish_fb (s : State) (r : Result) : (s.finish r).fb = s.fb := rfl
@[simp] theorem State.finish_ptOut (s : State) (r : Result) : (s.finish r).ptOut = s.ptOut := rfl
@[simp] theorem State.finish_cur (s : State) (r : Result) : (s.finish r).cur = s.cur := rfl
@[simp] theorem State.finish_dpc (s : State) (r : Result) : (s.finish r).dpc = s.dpc := rfl
@[simp] theorem State.finish_status (s : State) (r : Result) : (s.finish r).status = .ok := rfl
@[simp] theorem State.finish_publish (s : State) (r : Result) : (s.finish r).publish = s.publish := rfl
@[simp] theorem State.finish_faulted (s : State) (r : Result) : (s.finish r).faulted = s.faulted := rfl
@[simp] theorem State.finish_result (s : State) (r : Result) : (s.finish r).result = r := rfl

/-! ## The end of an expect check (R194) -/

@[simp] theorem State.finishCheck_op (s : State) (r : Bool × Nat) : (s.finishCheck r).op = s.op := rfl
@[simp] theorem State.finishCheck_inp (s : State) (r : Bool × Nat) : (s.finishCheck r).inp = s.inp := rfl
@[simp] theorem State.finishCheck_tol (s : State) (r : Bool × Nat) : (s.finishCheck r).tol = s.tol := rfl
@[simp] theorem State.finishCheck_fb (s : State) (r : Bool × Nat) : (s.finishCheck r).fb = s.fb := rfl
@[simp] theorem State.finishCheck_ptOut (s : State) (r : Bool × Nat) : (s.finishCheck r).ptOut = s.ptOut := rfl
@[simp] theorem State.finishCheck_cur (s : State) (r : Bool × Nat) : (s.finishCheck r).cur = r.2 := rfl
@[simp] theorem State.finishCheck_dpc (s : State) (r : Bool × Nat) : (s.finishCheck r).dpc = s.dpc := rfl
@[simp] theorem State.finishCheck_status (s : State) (r : Bool × Nat) : (s.finishCheck r).status = .ok := rfl
@[simp] theorem State.finishCheck_publish (s : State) (r : Bool × Nat) : (s.finishCheck r).publish = s.publish := rfl
@[simp] theorem State.finishCheck_faulted (s : State) (r : Bool × Nat) : (s.finishCheck r).faulted = s.faulted := rfl
@[simp] theorem State.finishCheck_result (s : State) (r : Bool × Nat) : (s.finishCheck r).result = .matched r.1 r.2 := rfl

/-! ## Raising a REJECT (R241, R248) -/

@[simp] theorem State.raiseReject_op (s : State) (r : Reject) : (s.raiseReject r).op = s.op := rfl
@[simp] theorem State.raiseReject_inp (s : State) (r : Reject) : (s.raiseReject r).inp = s.inp := rfl
@[simp] theorem State.raiseReject_tol (s : State) (r : Reject) : (s.raiseReject r).tol = s.tol := rfl
@[simp] theorem State.raiseReject_fb (s : State) (r : Reject) : (s.raiseReject r).fb = [] := rfl
@[simp] theorem State.raiseReject_ptOut (s : State) (r : Reject) : (s.raiseReject r).ptOut = [] := rfl
@[simp] theorem State.raiseReject_cur (s : State) (r : Reject) : (s.raiseReject r).cur = s.cur := rfl
@[simp] theorem State.raiseReject_dpc (s : State) (r : Reject) : (s.raiseReject r).dpc = s.dpc := rfl
@[simp] theorem State.raiseReject_status (s : State) (r : Reject) : (s.raiseReject r).status = .reject r := rfl
@[simp] theorem State.raiseReject_publish (s : State) (r : Reject) : (s.raiseReject r).publish = false := rfl
@[simp] theorem State.raiseReject_faulted (s : State) (r : Reject) : (s.raiseReject r).faulted = s.faulted := rfl
@[simp] theorem State.raiseReject_result (s : State) (r : Reject) : (s.raiseReject r).result = .absent := rfl

/-! ## A REJECT of the receive path (R199) -/

@[simp] theorem State.rejectAt_op (s : State) (r : Reject) : (s.rejectAt r).op = s.op := rfl
@[simp] theorem State.rejectAt_inp (s : State) (r : Reject) : (s.rejectAt r).inp = s.inp := rfl
@[simp] theorem State.rejectAt_tol (s : State) (r : Reject) : (s.rejectAt r).tol = s.tol := rfl
@[simp] theorem State.rejectAt_fb (s : State) (r : Reject) : (s.rejectAt r).fb = [] := rfl
@[simp] theorem State.rejectAt_ptOut (s : State) (r : Reject) : (s.rejectAt r).ptOut = [] := rfl
@[simp] theorem State.rejectAt_cur (s : State) (r : Reject) : (s.rejectAt r).cur = r.curOr s.cur := rfl
@[simp] theorem State.rejectAt_dpc (s : State) (r : Reject) : (s.rejectAt r).dpc = r.dpcOr s.dpc := rfl
@[simp] theorem State.rejectAt_status (s : State) (r : Reject) : (s.rejectAt r).status = .reject r := rfl
@[simp] theorem State.rejectAt_publish (s : State) (r : Reject) : (s.rejectAt r).publish = false := rfl
@[simp] theorem State.rejectAt_faulted (s : State) (r : Reject) : (s.rejectAt r).faulted = s.faulted := rfl
@[simp] theorem State.rejectAt_result (s : State) (r : Reject) : (s.rejectAt r).result = .absent := rfl

/-! ## Raising a FAULT (R242, R248) -/

@[simp] theorem State.raiseFault_op (s : State) (r : FaultReason) : (s.raiseFault r).op = s.op := rfl
@[simp] theorem State.raiseFault_inp (s : State) (r : FaultReason) : (s.raiseFault r).inp = s.inp := rfl
@[simp] theorem State.raiseFault_tol (s : State) (r : FaultReason) : (s.raiseFault r).tol = s.tol := rfl
@[simp] theorem State.raiseFault_fb (s : State) (r : FaultReason) : (s.raiseFault r).fb = [] := rfl
@[simp] theorem State.raiseFault_ptOut (s : State) (r : FaultReason) : (s.raiseFault r).ptOut = [] := rfl
@[simp] theorem State.raiseFault_cur (s : State) (r : FaultReason) : (s.raiseFault r).cur = s.cur := rfl
@[simp] theorem State.raiseFault_dpc (s : State) (r : FaultReason) : (s.raiseFault r).dpc = s.dpc := rfl
@[simp] theorem State.raiseFault_status (s : State) (r : FaultReason) : (s.raiseFault r).status = .fault r := rfl
@[simp] theorem State.raiseFault_publish (s : State) (r : FaultReason) : (s.raiseFault r).publish = false := rfl
@[simp] theorem State.raiseFault_faulted (s : State) (r : FaultReason) : (s.raiseFault r).faulted = true := rfl
@[simp] theorem State.raiseFault_result (s : State) (r : FaultReason) : (s.raiseFault r).result = .absent := rfl

/-! ## An illegal `OP` (R92) -/

@[simp] theorem State.illegalOp_op (s : State) : s.illegalOp.op = s.op := rfl
@[simp] theorem State.illegalOp_inp (s : State) : s.illegalOp.inp = s.inp := rfl
@[simp] theorem State.illegalOp_tol (s : State) : s.illegalOp.tol = s.tol := rfl
@[simp] theorem State.illegalOp_fb (s : State) : s.illegalOp.fb = [] := rfl
@[simp] theorem State.illegalOp_ptOut (s : State) : s.illegalOp.ptOut = [] := rfl
@[simp] theorem State.illegalOp_cur (s : State) : s.illegalOp.cur = 0 := rfl
@[simp] theorem State.illegalOp_dpc (s : State) : s.illegalOp.dpc = ⟨0, 0, 0⟩ := rfl
@[simp] theorem State.illegalOp_status (s : State) : s.illegalOp.status = .fault .illegalOp := rfl
@[simp] theorem State.illegalOp_publish (s : State) : s.illegalOp.publish = false := rfl
@[simp] theorem State.illegalOp_faulted (s : State) : s.illegalOp.faulted = true := rfl
@[simp] theorem State.illegalOp_result (s : State) : s.illegalOp.result = .absent := rfl

/-! ## Issuing an operation (R44) -/

@[simp] theorem State.issue_op (s : State) (i : Instr) (x : Inputs) : (s.issue i x).op = encode i := rfl
@[simp] theorem State.issue_inp (s : State) (i : Instr) (x : Inputs) : (s.issue i x).inp = x := rfl
@[simp] theorem State.issue_tol (s : State) (i : Instr) (x : Inputs) : (s.issue i x).tol = s.tol := rfl
@[simp] theorem State.issue_fb (s : State) (i : Instr) (x : Inputs) : (s.issue i x).fb = s.fb := rfl
@[simp] theorem State.issue_ptOut (s : State) (i : Instr) (x : Inputs) : (s.issue i x).ptOut = s.ptOut := rfl
@[simp] theorem State.issue_cur (s : State) (i : Instr) (x : Inputs) : (s.issue i x).cur = s.cur := rfl
@[simp] theorem State.issue_dpc (s : State) (i : Instr) (x : Inputs) : (s.issue i x).dpc = s.dpc := rfl
@[simp] theorem State.issue_status (s : State) (i : Instr) (x : Inputs) : (s.issue i x).status = s.status := rfl
@[simp] theorem State.issue_publish (s : State) (i : Instr) (x : Inputs) : (s.issue i x).publish = s.publish := rfl
@[simp] theorem State.issue_faulted (s : State) (i : Instr) (x : Inputs) : (s.issue i x).faulted = s.faulted := rfl
@[simp] theorem State.issue_result (s : State) (i : Instr) (x : Inputs) : (s.issue i x).result = s.result := rfl

/-! ## The word on the `OP` port (R44) -/

@[simp] theorem State.withFetchWord_op (s : State) (nbits w : Nat) :
    (s.withFetchWord nbits w).op = BitVec.ofNat 8 (w % 2 ^ nbits) := rfl
@[simp] theorem State.withFetchWord_inp (s : State) (nbits w : Nat) : (s.withFetchWord nbits w).inp = s.inp := rfl
@[simp] theorem State.withFetchWord_tol (s : State) (nbits w : Nat) : (s.withFetchWord nbits w).tol = s.tol := rfl

/-! ## Starting afresh forgets everything but the caller's inputs and FAULTED (R45, R249) -/

/-- The start depends on `op`, `inp`, `tol` and FAULTED alone. -/
theorem State.start_congr {s t : State} (h1 : s.op = t.op) (h2 : s.inp = t.inp) (h3 : s.tol = t.tol)
    (h4 : s.faulted = t.faulted) : s.start = t.start := by
  cases s; cases t; simp_all [State.start]

end Sys2Proof.Machine
end

