-- ==== Sys2Proof/Laws/Ops.lean ====
section
/-!
SUPPORT. One lemma for each shared operation that says everything it can do: the guarded operand, the settled
computation, the port readers, the frame's tests, and the step.
-/

namespace Sys2Proof.Machine

/-! ## Guarded operands and settled computations -/

@[simp] theorem State.guardOperand_some (s : State) {α : Type} (a : α) (k : α → State) :
    s.guardOperand (some a) k = k a := rfl

@[simp] theorem State.guardOperand_none (s : State) {α : Type} (k : α → State) :
    s.guardOperand none k = s.raiseFault .badOperand := rfl

@[simp] theorem State.settle_ok (s : State) (v : Result) : s.settle (.ok v) = s.finish v := rfl

@[simp] theorem State.settle_error (s : State) (e : Reject) : s.settle (.error e) = s.raiseReject e := rfl

/-! ## The port readers and the operands' domain (R107, R130) -/

/-- The mode port has a meaning exactly when its code is below 6. -/
theorem modeOf_isSome (x : Inputs) : (modeOf x.mode).isSome = x.modeWf := by
  unfold Inputs.modeWf
  generalize x.mode = c
  revert c
  decide

/-- The preset port has a meaning exactly when its code is below 3. -/
theorem presetOf_isSome (x : Inputs) : (presetOf x.preset).isSome = x.presetWf := by
  unfold Inputs.presetWf
  generalize x.preset = c
  revert c
  decide

/-- The target_c port has a meaning exactly when it names a rational. -/
theorem tempOf_isSome (x : Inputs) : (tempOf x.targetC).isSome = x.tempWf := by
  unfold Inputs.tempWf tempOf
  cases x.targetC with
  | nonFinite => rfl
  | pair q => by_cases h : 0 < q.den <;> simp [h]

/-- BCD_ENC's value is in its domain exactly when it is at most 99. -/
theorem bcdOperand_isSome (x : Inputs) : (bcdOperand x.value).isSome = x.valueWf := by
  unfold Inputs.valueWf bcdOperand
  by_cases h : x.value ≤ 99 <;> simp [h]

/-- BUILD's thermostat state has a meaning exactly when its three coded ports do. -/
theorem thermoOf_isSome (x : Inputs) : (thermoOf x).isSome = (x.modeWf && x.presetWf && x.tempWf) := by
  rw [← modeOf_isSome, ← presetOf_isSome, ← tempOf_isSome]
  unfold thermoOf
  cases modeOf x.mode <;> cases presetOf x.preset <;> cases tempOf x.targetC <;> rfl

/-- A rational read from the target_c port has a positive denominator. -/
theorem tempOf_den_pos {t : TempPort} {q : Ratio} (h : tempOf t = some q) : 0 < q.den := by
  cases t with
  | nonFinite => simp [tempOf] at h
  | pair p =>
    simp only [tempOf] at h
    split at h
    · cases h
      assumption
    · cases h

@[simp] theorem modeOf_modeCode (m : Mode) : modeOf (modeCode m) = some m := by cases m <;> rfl

@[simp] theorem fanOf_fanCode (f : Fan) : fanOf (fanCode f) = f := by cases f <;> rfl

@[simp] theorem presetOf_presetCode (p : Preset) : presetOf (presetCode p) = some p := by cases p <;> rfl

@[simp] theorem powerOf_powerCode (p : Power) : powerOf (powerCode p) = p := by cases p <;> rfl

@[simp] theorem levelOf_levelCode (l : Level) : levelOf (levelCode l) = l := by cases l <;> rfl

/-! ## The frame's tests (R153, R154) -/

/-- VALIDATE accepts a frame exactly when the header and both checksums match. -/
theorem validateFrame_ok_iff (F : Frame) :
    validateFrame F = .ok () ↔ F[0] = Config.headerByte ∧ hi4 F[7] = cksum1 F ∧ hi4 F[15] = cksum2 F := by
  unfold validateFrame
  by_cases h0 : F[0] = Config.headerByte <;> by_cases h1 : hi4 F[7] = cksum1 F <;>
    by_cases h2 : hi4 F[15] = cksum2 F <;> simp [h0, h1, h2]

/-- What VALIDATE can answer with: OK, or one of three rejects with the condition that raises it. -/
theorem validateFrame_cases (F : Frame) :
    validateFrame F = .ok () ∨
    (F[0] ≠ Config.headerByte ∧ validateFrame F = .error (.header F[0])) ∨
    (F[0] = Config.headerByte ∧ hi4 F[7] ≠ cksum1 F ∧ validateFrame F = .error (.cksum1 (hi4 F[7]) (cksum1 F))) ∨
    (F[0] = Config.headerByte ∧ hi4 F[7] = cksum1 F ∧ hi4 F[15] ≠ cksum2 F ∧
      validateFrame F = .error (.cksum2 (hi4 F[15]) (cksum2 F))) := by
  unfold validateFrame
  by_cases h0 : F[0] = Config.headerByte <;> by_cases h1 : hi4 F[7] = cksum1 F <;>
    by_cases h2 : hi4 F[15] = cksum2 F <;> simp [h0, h1, h2]

/-- PARSE answers with the decoded state where VALIDATE accepts. -/
theorem parseFrame_ok {F : Frame} (h : validateFrame F = .ok ()) : parseFrame F = .ok (decodeState F) := by
  simp [parseFrame, h]

/-- PARSE answers with VALIDATE's reject. -/
theorem parseFrame_error {F : Frame} {e : Reject} (h : validateFrame F = .error e) : parseFrame F = .error e := by
  simp [parseFrame, h]

/-! ## Nibbles and BCD -/

@[simp] theorem hi4_join4 (h l : Nibble) : hi4 (join4 h l) = h := by revert h l; decide

@[simp] theorem lo4_join4 (h l : Nibble) : lo4 (join4 h l) = l := by revert h l; decide

@[simp] theorem join4_hi4_lo4 (b : Byte) : join4 (hi4 b) (lo4 b) = b := by revert b; decide

/-- A packed value reads back (R131). -/
theorem bcdDec_bcdEnc {v : Nat} (h : v ≤ 99) : bcdDec (bcdEnc v) = v := by
  simp only [bcdDec, bcdEnc, hi4_join4, lo4_join4, BitVec.toNat_ofNat]
  omega

@[simp] theorem fanDec_fanEnc (f : Fan) : fanDec (fanEnc f) = f := by cases f <;> rfl

@[simp] theorem presetDec_presetEnc (p : Preset) (h : Nibble) :
    presetDec (join4 h (presetEnc p).1) (presetEnc p).2 = p := by
  cases p <;> revert h <;> decide

/-! ## The step -/

/-- A step whose word decodes runs that operation. -/
theorem step_of_decode {s : State} {i : Instr} (h : decode s.op = .ok i) : step s = exec i s := by
  simp [step, h]

/-- A step whose word is illegal faults. -/
theorem step_of_illegal {s : State} {e : DecodeError} (h : decode s.op = .error e) : step s = .next s.illegalOp := by
  simp [step, h]

/-- Every operation answers with a next state. -/
theorem exec_next (i : Instr) (s : State) : ∃ t, exec i s = .next t := by
  cases i <;> exact ⟨_, rfl⟩

end Sys2Proof.Machine
end

