-- ==== Sys2Proof/Laws/Pulse.lean ====
section
/-!
SUPPORT. One lemma for each function of the receive path that says what it can answer with, and the shape of what the
transmit path emits (42_pulse_codec.md R190-R199).
-/

namespace Sys2Proof.Machine

/-- The check of one pulse, as a fact about the pulse there (R194). -/
theorem pulseMatches_iff {tol : Tol} {pt : List Pulse} {k : Nat} {l : Level} {d : Nat} :
    pulseMatches tol pt k l d = true ↔ ∃ p, pt[k]? = some p ∧ p.level = l ∧ tol l d p.dur = true := by
  unfold pulseMatches
  cases pt[k]? <;> simp

/-- There is no match past the end of the capture (R65). -/
theorem pulseMatches_past {tol : Tol} {pt : List Pulse} {k : Nat} (l : Level) (d : Nat) (h : pt.length ≤ k) :
    pulseMatches tol pt k l d = false := by
  simp [pulseMatches, List.getElem?_eq_none h]

/-- The mark check matches and moves by one, or does neither (R194). -/
theorem checkMark_cases (tol : Tol) (pt : List Pulse) (cur d : Nat) :
    (pulseMatches tol pt cur .mark d = true ∧ checkMark tol pt cur d = (true, cur + 1)) ∨
    (pulseMatches tol pt cur .mark d = false ∧ checkMark tol pt cur d = (false, cur)) := by
  unfold checkMark
  cases pulseMatches tol pt cur .mark d <;> simp

/-- The space check matches and moves by one, or does neither (R195). -/
theorem checkSpace_cases (tol : Tol) (pt : List Pulse) (cur d : Nat) :
    (pulseMatches tol pt cur .space d = true ∧ checkSpace tol pt cur d = (true, cur + 1)) ∨
    (pulseMatches tol pt cur .space d = false ∧ checkSpace tol pt cur d = (false, cur)) := by
  unfold checkSpace
  cases pulseMatches tol pt cur .space d <;> simp

/-- The pair check matches both and moves by two, or does neither (R196). -/
theorem checkPair_cases (tol : Tol) (pt : List Pulse) (cur m s : Nat) :
    (PairAt tol pt cur m s ∧ checkPair tol pt cur m s = (true, cur + 2)) ∨
    (¬ PairAt tol pt cur m s ∧ checkPair tol pt cur m s = (false, cur)) := by
  unfold checkPair PairAt
  cases pulseMatches tol pt cur .mark m <;> cases pulseMatches tol pt (cur + 1) .space s <;> simp

/-- A pair element matches and gives the next cursor, or rejects at its position (R199). -/
theorem needPair_cases (tol : Tol) (pt : List Pulse) (dpc : Dpc) (cur m s : Nat) :
    (PairAt tol pt cur m s ∧ needPair tol pt dpc cur m s = .ok (cur + 2)) ∨
    (¬ PairAt tol pt cur m s ∧ needPair tol pt dpc cur m s = .error (.pulse dpc cur)) := by
  unfold needPair
  rcases checkPair_cases tol pt cur m s with ⟨h, e⟩ | ⟨h, e⟩ <;> simp [h, e]

/-- A mark element matches and gives the next cursor, or rejects at its position (R199). -/
theorem needMark_cases (tol : Tol) (pt : List Pulse) (dpc : Dpc) (cur d : Nat) :
    (pulseMatches tol pt cur .mark d = true ∧ needMark tol pt dpc cur d = .ok (cur + 1)) ∨
    (pulseMatches tol pt cur .mark d = false ∧ needMark tol pt dpc cur d = .error (.pulse dpc cur)) := by
  unfold needMark
  rcases checkMark_cases tol pt cur d with ⟨h, e⟩ | ⟨h, e⟩ <;> simp [h, e]

/-- A bit: the 1 symbol, else the 0 symbol, else a reject at its position (R197). -/
theorem readBit_cases (tol : Tol) (pt : List Pulse) (dpc : Dpc) (cur : Nat) :
    (PairAt tol pt cur Config.bitMark Config.oneSpace ∧ readBit tol pt dpc cur = .ok (true, cur + 2)) ∨
    (¬ PairAt tol pt cur Config.bitMark Config.oneSpace ∧ PairAt tol pt cur Config.bitMark Config.zeroSpace ∧
      readBit tol pt dpc cur = .ok (false, cur + 2)) ∨
    (¬ PairAt tol pt cur Config.bitMark Config.oneSpace ∧ ¬ PairAt tol pt cur Config.bitMark Config.zeroSpace ∧
      readBit tol pt dpc cur = .error (.pulse dpc cur)) := by
  unfold readBit
  rcases checkPair_cases tol pt cur Config.bitMark Config.oneSpace with ⟨h, e⟩ | ⟨h, e⟩
  · simp [h, e]
  · rcases checkPair_cases tol pt cur Config.bitMark Config.zeroSpace with ⟨h', e'⟩ | ⟨h', e'⟩ <;>
      simp [h, h', e, e']

/-- The bits of a byte: two pulses each, or a reject at one of them (R198). -/
theorem readByte_cases (tol : Tol) (pt : List Pulse) (e : Fin 9) (i : Fin 8) (js : List (Fin 8)) (b : Byte)
    (cur : Nat) :
    (∃ b', readByte tol pt e i js b cur = .ok (b', cur + 2 * js.length)) ∨
    (∃ j ∈ js, ∃ k, readByte tol pt e i js b cur = .error (.pulse ⟨e, i, j⟩ k)) := by
  induction js generalizing b cur with
  | nil => exact .inl ⟨b, rfl⟩
  | cons j rest ih =>
    have lenEq : cur + 2 + 2 * rest.length = cur + 2 * (j :: rest).length := by
      simp only [List.length_cons]
      omega
    rcases readBit_cases tol pt ⟨e, i, j⟩ cur with ⟨-, h⟩ | ⟨-, -, h⟩ | ⟨-, -, h⟩
    · rcases ih (b ||| (1 <<< j.val)) (cur + 2) with ⟨b', h'⟩ | ⟨j', hj, k, h'⟩
      · exact .inl ⟨b', by simp only [readByte, h]; rw [← lenEq]; exact h'⟩
      · exact .inr ⟨j', by simp [hj], k, by simp only [readByte, h]; exact h'⟩
    · rcases ih (b ||| (0 <<< j.val)) (cur + 2) with ⟨b', h'⟩ | ⟨j', hj, k, h'⟩
      · exact .inl ⟨b', by simp only [readByte, h]; rw [← lenEq]; exact h'⟩
      · exact .inr ⟨j', by simp [hj], k, by simp only [readByte, h]; exact h'⟩
    · exact .inr ⟨j, by simp, cur, by simp only [readByte, h]⟩

/-- The bytes of a section: sixteen pulses each, or a reject at one bit (R198). -/
theorem readBytes_cases (tol : Tol) (pt : List Pulse) (e : Fin 9) (is : List (Fin 8)) (B : Section8) (cur : Nat) :
    (∃ B', readBytes tol pt e is B cur = .ok (B', cur + 16 * is.length)) ∨
    (∃ i j k, readBytes tol pt e is B cur = .error (.pulse ⟨e, i, j⟩ k)) := by
  induction is generalizing B cur with
  | nil => exact .inl ⟨B, rfl⟩
  | cons i rest ih =>
    have lenEq : cur + 2 * idx8.length + 16 * rest.length = cur + 16 * (i :: rest).length := by
      simp only [List.length_cons, idx8, List.length_nil]
      omega
    rcases readByte_cases tol pt e i idx8 0x00 cur with ⟨b, h⟩ | ⟨j, -, k, h⟩
    · rcases ih (B.set i b) (cur + 2 * idx8.length) with ⟨B', h'⟩ | ⟨i', j', k, h'⟩
      · exact .inl ⟨B', by simp only [readBytes, h]; rw [← lenEq]; exact h'⟩
      · exact .inr ⟨i', j', k, by simp only [readBytes, h]; exact h'⟩
    · exact .inr ⟨i, j, k, by simp only [readBytes, h]⟩

/-- A section: 128 pulses, or a reject at one of its bits (R198). -/
theorem consumeBits_cases (tol : Tol) (pt : List Pulse) (e : Fin 9) (cur : Nat) :
    (∃ B, consumeBits tol pt e cur = .ok (B, cur + 128)) ∨
    (∃ i j k, consumeBits tol pt e cur = .error (.pulse ⟨e, i, j⟩ k)) :=
  readBytes_cases tol pt e idx8 (Vector.replicate 8 0x00) cur

/-- DECODE answers with a frame after 267 pulses, or with REJ_PULSE (R199, R241). -/
theorem decodeTrain_cases (tol : Tol) (pt : List Pulse) :
    (∃ F, decodeTrain tol pt = .ok (F, 267)) ∨ (∃ d k, decodeTrain tol pt = .error (.pulse d k)) := by
  unfold decodeTrain
  rcases needPair_cases tol pt ⟨0, 0, 0⟩ 0 Config.hdr1Mark Config.hdr1Space with ⟨-, h⟩ | ⟨-, h⟩ <;>
    simp only [h, bind, Except.bind]
  swap; · exact .inr ⟨_, _, rfl⟩
  rcases consumeBits_cases tol pt 1 (0 + 2) with ⟨B, h⟩ | ⟨i, j, k, h⟩ <;> simp only [h]
  swap; · exact .inr ⟨_, _, rfl⟩
  rcases needPair_cases tol pt ⟨2, 0, 0⟩ (0 + 2 + 128) Config.ftrMark Config.ftrSpace with ⟨-, h⟩ | ⟨-, h⟩ <;>
    simp only [h]
  swap; · exact .inr ⟨_, _, rfl⟩
  rcases needPair_cases tol pt ⟨3, 0, 0⟩ (0 + 2 + 128 + 2) Config.ismMark Config.ismSpace with ⟨-, h⟩ | ⟨-, h⟩ <;>
    simp only [h]
  swap; · exact .inr ⟨_, _, rfl⟩
  rcases needPair_cases tol pt ⟨4, 0, 0⟩ (0 + 2 + 128 + 2 + 2) Config.hdr2Mark Config.hdr2Space with ⟨-, h⟩ | ⟨-, h⟩ <;>
    simp only [h]
  swap; · exact .inr ⟨_, _, rfl⟩
  rcases consumeBits_cases tol pt 5 (0 + 2 + 128 + 2 + 2 + 2) with ⟨B', h⟩ | ⟨i, j, k, h⟩ <;> simp only [h]
  swap; · exact .inr ⟨_, _, rfl⟩
  rcases needPair_cases tol pt ⟨6, 0, 0⟩ (0 + 2 + 128 + 2 + 2 + 2 + 128) Config.ftrMark Config.ftrSpace with
    ⟨-, h⟩ | ⟨-, h⟩ <;> simp only [h]
  swap; · exact .inr ⟨_, _, rfl⟩
  rcases needMark_cases tol pt ⟨7, 0, 0⟩ (0 + 2 + 128 + 2 + 2 + 2 + 128 + 2) Config.finalMark with ⟨-, h⟩ | ⟨-, h⟩ <;>
    simp only [h]
  · exact .inl ⟨_, rfl⟩
  · exact .inr ⟨_, _, rfl⟩

/-- A byte is sixteen pulses. -/
@[simp] theorem emitByte_length (b : Byte) : (emitByte b).length = 16 := by
  simp [emitByte, idx8, emitBit, markSpace]

/-- A section's bits are 128 pulses (R190). -/
@[simp] theorem emitBits_length (B : Section8) : (emitBits B).length = 128 := by
  simp [emitBits, idx8]

/-- The exact tolerance meets the three laws. -/
theorem exactTol_laws : TL1 exactTol ∧ TL2 exactTol ∧ TL3 exactTol := by
  refine ⟨fun l d _ => ?_, rfl, .inl rfl⟩
  simp [exactTol]

/-- For every tolerance and every finite list of questions put to it there are windows that answer all of them alike: a
run puts finitely many questions, so the windows leave no behaviour out (log entry 3). -/
theorem exists_windows (f : Tol) (qs : List (Level × Nat × Nat)) :
    ∃ ws : List Window, ∀ q ∈ qs, tolMatch ws q.1 q.2.1 q.2.2 = f q.1 q.2.1 q.2.2 := by
  refine ⟨(qs.filter fun q => f q.1 q.2.1 q.2.2).map fun q => ⟨q.1, q.2.1, q.2.2, q.2.2⟩, fun q hq => ?_⟩
  obtain ⟨l, e, a⟩ := q
  rw [Bool.eq_iff_iff]
  simp only [tolMatch, List.any_map, List.any_eq_true, List.mem_filter, Function.comp_apply, Bool.and_eq_true,
    decide_eq_true_eq, beq_iff_eq]
  constructor
  · rintro ⟨⟨l', e', a'⟩, ⟨-, hf⟩, ⟨⟨hl, he⟩, h1⟩, h2⟩
    simp only at hf hl he h1 h2
    have : a' = a := le_antisymm h1 h2
    subst hl he this
    exact hf
  · intro hf
    exact ⟨(l, e, a), ⟨hq, hf⟩, ⟨⟨rfl, rfl⟩, le_refl a⟩, le_refl a⟩

end Sys2Proof.Machine
end

