-- ==== Sys2Proof/Laws/Exec.lean ====
section
/-!
SUPPORT. One equation for each way an operation can end: the next state as a chain of named updates of the start. A
proof about an operation cites its equation and the field lemmas of Laws/State.lean, and unfolds no meaning.
-/

namespace Sys2Proof.Machine

/-! ## Group 0x0 and 0x1: the frame builder and parser -/

theorem exec_build_some {s : State} {v : _} (h : thermoOf s.inp = some v) :
    exec .build s = .next ((s.start.putFb (buildBuffer v (timeOf s.inp.time))).finish
      (.frame (buildBuffer v (timeOf s.inp.time)).toFrame)) := by
  simp only [exec, execBuild, h, State.guardOperand_some]

theorem exec_build_none {s : State} (h : thermoOf s.inp = none) : exec .build s = .next (s.start.raiseFault .badOperand) := by
  simp only [exec, execBuild, h, State.guardOperand_none]

theorem exec_parse_ok {s : State} (h : validateFrame s.inp.frame = .ok ()) :
    exec .parse s = .next (s.startFrame.raisePublish.finish (.decoded (decodeState s.inp.frame))) := by
  simp only [exec, execParse, State.startFrame_fb, Memory.toFrame_ofFrame, parseFrame_ok h]

theorem exec_parse_error {s : State} {e : Reject} (h : validateFrame s.inp.frame = .error e) :
    exec .parse s = .next (s.startFrame.raiseReject e) := by
  simp only [exec, execParse, State.startFrame_fb, Memory.toFrame_ofFrame, parseFrame_error h]

theorem exec_validate_ok {s : State} (h : validateFrame s.inp.frame = .ok ()) :
    exec .validate s = .next (s.startFrame.finish .valid) := by
  simp only [exec, execValidate, State.startFrame_fb, Memory.toFrame_ofFrame, h, Except.map, State.settle_ok]

theorem exec_validate_error {s : State} {e : Reject} (h : validateFrame s.inp.frame = .error e) :
    exec .validate s = .next (s.startFrame.raiseReject e) := by
  simp only [exec, execValidate, State.startFrame_fb, Memory.toFrame_ofFrame, h, Except.map, State.settle_error]

theorem exec_bcdEnc_some {s : State} {v : _} (h : bcdOperand s.inp.value = some v) :
    exec .bcdEnc s = .next (s.start.finish (.byte (bcdEnc v))) := by
  simp only [exec, execBcdEnc, h, State.guardOperand_some]

theorem exec_bcdEnc_none {s : State} (h : bcdOperand s.inp.value = none) : exec .bcdEnc s = .next (s.start.raiseFault .badOperand) := by
  simp only [exec, execBcdEnc, h, State.guardOperand_none]

theorem exec_bcdDec (s : State) : exec .bcdDec s = .next (s.start.finish (.nat (bcdDec s.inp.byte))) := rfl

theorem exec_fanEnc (s : State) : exec .fanEnc s = .next (s.start.finish (.nibble (fanEnc (fanOf s.inp.fan)))) := rfl

theorem exec_fanDec (s : State) : exec .fanDec s = .next (s.start.finish (.fan (fanDec s.inp.nibble))) := rfl

theorem exec_modeEnc_some {s : State} {v : _} (h : modeOf s.inp.mode = some v) :
    exec .modeEnc s = .next (s.start.finish (.nibble (modeEnc v))) := by
  simp only [exec, execModeEnc, h, State.guardOperand_some]

theorem exec_modeEnc_none {s : State} (h : modeOf s.inp.mode = none) : exec .modeEnc s = .next (s.start.raiseFault .badOperand) := by
  simp only [exec, execModeEnc, h, State.guardOperand_none]

theorem exec_modeDec (s : State) : exec .modeDec s = .next (s.start.finish (.mode (modeDec s.inp.nibble))) := rfl

theorem exec_powerEnc (s : State) : exec .powerEnc s = .next (s.start.finish (.byte (powerEnc (powerOf s.inp.power)))) := rfl

theorem exec_powerDec (s : State) : exec .powerDec s = .next (s.start.finish (.power (powerDec s.inp.byte))) := rfl

theorem exec_tempcEnc_some {s : State} {v : _} (h : tempOf s.inp.targetC = some v) :
    exec .tempcEnc s = .next (s.start.finish (.byte (tempcEnc v))) := by
  simp only [exec, execTempcEnc, h, State.guardOperand_some]

theorem exec_tempcEnc_none {s : State} (h : tempOf s.inp.targetC = none) : exec .tempcEnc s = .next (s.start.raiseFault .badOperand) := by
  simp only [exec, execTempcEnc, h, State.guardOperand_none]

theorem exec_tempfEnc_some {s : State} {v : _} (h : tempOf s.inp.targetC = some v) :
    exec .tempfEnc s = .next (s.start.finish (.byte (tempfEnc v))) := by
  simp only [exec, execTempfEnc, h, State.guardOperand_some]

theorem exec_tempfEnc_none {s : State} (h : tempOf s.inp.targetC = none) : exec .tempfEnc s = .next (s.start.raiseFault .badOperand) := by
  simp only [exec, execTempfEnc, h, State.guardOperand_none]

theorem exec_clockEnc (s : State) :
    exec .clockEnc s = .next (s.start.finish (.clock (clockEnc (timeOf s.inp.time)).1
      (clockEnc (timeOf s.inp.time)).2.1 (clockEnc (timeOf s.inp.time)).2.2)) := rfl

theorem exec_presetEnc_some {s : State} {v : _} (h : presetOf s.inp.preset = some v) :
    exec .presetEnc s = .next (s.start.finish (.presetBits (presetEnc v).1 (presetEnc v).2)) := by
  simp only [exec, execPresetEnc, h, State.guardOperand_some]

theorem exec_presetEnc_none {s : State} (h : presetOf s.inp.preset = none) : exec .presetEnc s = .next (s.start.raiseFault .badOperand) := by
  simp only [exec, execPresetEnc, h, State.guardOperand_none]

theorem exec_presetDec (s : State) : exec .presetDec s = .next (s.start.finish (.preset (presetDec s.inp.byte7 s.inp.byte12))) := rfl

theorem exec_cksum1 (s : State) : exec .cksum1 s = .next (s.startFrame.finish (.nibble (cksum1 s.inp.frame))) := by
  simp only [exec, execCksum1, State.startFrame_fb, Memory.toFrame_ofFrame]

theorem exec_cksum2 (s : State) : exec .cksum2 s = .next (s.startFrame.finish (.nibble (cksum2 s.inp.frame))) := by
  simp only [exec, execCksum2, State.startFrame_fb, Memory.toFrame_ofFrame]

/-! ## Group 0x0 and 0x2: the pulse codec -/

theorem exec_encode (s : State) :
    exec .encode s = .next ((s.startFrame.appendOut (encodeTrain s.inp.frame)).finish
      (.train (encodeTrain s.inp.frame) 38000)) := by
  simp only [exec, execEncode, State.startFrame_fb, Memory.toFrame_ofFrame, State.appendOut_ptOut,
    State.startFrame_ptOut, List.nil_append, Config.carrierHz]

theorem exec_decode_ok {s : State} {F : Frame} {c : Nat} (h : decodeTrain (tolMatch s.tol) s.inp.ptIn = .ok (F, c)) :
    exec .decode s = .next (((s.start.putFb (Memory.ofFrame F)).putPos c ⟨8, 0, 0⟩).finish (.frame F)) := by
  simp only [exec, execDecode, h]

theorem exec_decode_error {s : State} {e : Reject} (h : decodeTrain (tolMatch s.tol) s.inp.ptIn = .error e) :
    exec .decode s = .next (s.start.rejectAt e) := by
  simp only [exec, execDecode, h]

theorem exec_emitBits (s : State) :
    exec .emitBits s = .next ((s.start.appendOut (emitBits s.inp.bytes)).finish (.pulses (emitBits s.inp.bytes))) := rfl

theorem exec_expectMark (s : State) :
    exec .expectMark s =
      .next (s.startCur.finishCheck (checkMark (tolMatch s.tol) s.inp.ptIn s.inp.cur s.inp.markDur)) := rfl

theorem exec_expectSpace (s : State) :
    exec .expectSpace s =
      .next (s.startCur.finishCheck (checkSpace (tolMatch s.tol) s.inp.ptIn s.inp.cur s.inp.spaceDur)) := rfl

theorem exec_expectPair (s : State) :
    exec .expectPair s = .next (s.startCur.finishCheck
      (checkPair (tolMatch s.tol) s.inp.ptIn s.inp.cur s.inp.markDur s.inp.spaceDur)) := rfl

theorem exec_decodeBit_ok {s : State} {b : Bool} {c : Nat}
    (h : readBit (tolMatch s.tol) s.inp.ptIn ⟨0, 0, 0⟩ s.inp.cur = .ok (b, c)) :
    exec .decodeBit s = .next ((s.startCur.putPos c ⟨0, 0, 0⟩).finish (.bit b c)) := by
  simp only [exec, execDecodeBit, State.startCur_dpc, State.startCur_cur, h]

theorem exec_decodeBit_error {s : State} {e : Reject}
    (h : readBit (tolMatch s.tol) s.inp.ptIn ⟨0, 0, 0⟩ s.inp.cur = .error e) :
    exec .decodeBit s = .next (s.startCur.rejectAt e) := by
  simp only [exec, execDecodeBit, State.startCur_dpc, State.startCur_cur, h]

theorem exec_consumeBits_ok {s : State} {B : Section8} {c : Nat}
    (h : consumeBits (tolMatch s.tol) s.inp.ptIn 0 s.inp.cur = .ok (B, c)) :
    exec .consumeBits s = .next ((s.startCur.putPos c ⟨0, 7, 7⟩).finish (.bytes B c)) := by
  simp only [exec, execConsumeBits, State.startCur_dpc, State.startCur_cur, h]

theorem exec_consumeBits_error {s : State} {e : Reject}
    (h : consumeBits (tolMatch s.tol) s.inp.ptIn 0 s.inp.cur = .error e) :
    exec .consumeBits s = .next (s.startCur.rejectAt e) := by
  simp only [exec, execConsumeBits, State.startCur_dpc, State.startCur_cur, h]

end Sys2Proof.Machine
end

