-- ==== Sys2Proof/Laws/Frame.lean ====
section
/-!
SUPPORT. What the buffer reads as after BUILD's writes (41_frame_builder_parser.md R149, R150): one lemma for each of
the three shared operations, so that no proof unfolds the nested writes.
-/

namespace Sys2Proof.Machine

/-- Checksum-1 depends on bytes 0 to 6 and the low nibble of byte 7 (R147). -/
theorem cksum1_congr {F G : Frame} (h : ∀ a : Fin 16, a.val < 7 → F[a] = G[a]) (h7 : lo4 F[7] = lo4 G[7]) :
    cksum1 F = cksum1 G := by
  have pair : ∀ a ∈ ([0, 1, 2, 3, 4, 5, 6] : List (Fin 16)), nibblePair F a = nibblePair G a := fun a ha => by
    have : a.val < 7 := by revert a; decide
    simp only [nibblePair, h a this]
  unfold cksum1 nibsum
  rw [List.map_congr_left pair]
  exact congrArg (fun x : Nibble => BitVec.ofNat 4 ((_ + x.toNat) % 16)) h7

/-- Checksum-2 depends on bytes 8 to 14 and the low nibble of byte 15 (R148). -/
theorem cksum2_congr {F G : Frame} (h : ∀ a : Fin 16, 8 ≤ a.val → a.val < 15 → F[a] = G[a])
    (h15 : lo4 F[15] = lo4 G[15]) : cksum2 F = cksum2 G := by
  have pair : ∀ a ∈ ([8, 9, 10, 11, 12, 13, 14] : List (Fin 16)), nibblePair F a = nibblePair G a := fun a ha => by
    have : 8 ≤ a.val ∧ a.val < 15 := by revert a; decide
    simp only [nibblePair, h a this.1 this.2]
  unfold cksum2 nibsum
  rw [List.map_congr_left pair]
  exact congrArg (fun x : Nibble => BitVec.ofNat 4 ((_ + x.toNat) % 16)) h15

/-- A frame's byte read by number, for a frame held in the buffer. -/
theorem Memory.toFrame_getElem (m : Memory) (n : Nat) (h : n < 16) : m.toFrame[n] = m.read ⟨n, h⟩ :=
  Memory.toFrame_get m ⟨n, h⟩

/-- A placed nibble changes one byte's high nibble and nothing else (R149). -/
theorem Memory.read_placeHigh {m : Memory} (a b : Fin 16) (c : Nibble) (h : m.wf = true) :
    (placeHigh m a c).read b = if b = a then join4 c (lo4 (m.read a)) else m.read b :=
  Memory.read_write a b _ h

/-- Both checksums placed: each is the checksum of the final buffer, the low nibbles and the other bytes stay (R149). -/
theorem Memory.read_placeChecksums {m : Memory} (b : Fin 16) (h : m.wf = true) :
    (placeChecksums m).read b =
      if b = 15 then join4 (cksum2 (placeChecksums m).toFrame) (lo4 (m.read 15))
      else if b = 7 then join4 (cksum1 (placeChecksums m).toFrame) (lo4 (m.read 7))
      else m.read b := by
  have w1 := Memory.wf_placeHigh 7 (cksum1 m.toFrame) h
  have low : ∀ c l : Nibble, lo4 (join4 c l) = l := lo4_join4
  have rd : ∀ b, (placeChecksums m).read b =
      if b = 15 then join4 (cksum2 (placeHigh m 7 (cksum1 m.toFrame)).toFrame) (lo4 (m.read 15))
      else if b = 7 then join4 (cksum1 m.toFrame) (lo4 (m.read 7)) else m.read b := fun b => by
    unfold placeChecksums
    rw [Memory.read_placeHigh _ _ _ w1, Memory.read_placeHigh _ _ _ h, Memory.read_placeHigh _ _ _ h,
      if_neg (by decide : ¬ (15 : Fin 16) = 7)]
  have c1 : cksum1 (placeChecksums m).toFrame = cksum1 m.toFrame := by
    apply cksum1_congr
    · intro a ha
      rw [Memory.toFrame_get, Memory.toFrame_get, rd, if_neg (by rintro rfl; revert ha; decide),
        if_neg (by rintro rfl; revert ha; decide)]
    · rw [Memory.toFrame_getElem, Memory.toFrame_getElem, rd]
      exact low _ _
  have c2 : cksum2 (placeChecksums m).toFrame = cksum2 (placeHigh m 7 (cksum1 m.toFrame)).toFrame := by
    apply cksum2_congr
    · intro a ha hb
      rw [Memory.toFrame_get, Memory.toFrame_get, rd, Memory.read_placeHigh _ _ _ h,
        if_neg (by rintro rfl; revert hb; decide)]
    · rw [Memory.toFrame_getElem, Memory.toFrame_getElem, rd, Memory.read_placeHigh _ _ _ h]
      exact low _ _
  rw [rd, c1, c2]

/-- BUILD's fields before the checksums, byte by byte (R150). -/
theorem Memory.read_buildFields (st : Thermo) (tm : Option Clock) (a : Fin 16) :
    (buildFields st tm []).read a =
      if a = 15 then 0 else if a = 13 then 0 else if a = 11 then tempfEnc st.targetC
      else if a = 10 then powerEnc (powerOfMode st.mode) else if a = 9 then 0 else if a = 8 then 0
      else if a = 7 then join4 0 (presetEnc st.preset).1 else if a = 12 then (presetEnc st.preset).2
      else if a = 6 then tempcEnc st.targetC else if a = 5 then 0 else if a = 4 then 0
      else if a = 14 then (clockEnc tm).2.2 else if a = 3 then (clockEnc tm).2.1 else if a = 2 then (clockEnc tm).1
      else if a = 1 then join4 (fanEnc st.fan) (modeEnc st.mode) else 0x16 := by
  unfold buildFields
  iterate 16 rw [Memory.read_write]
  · simp only [Memory.read_nil, Config.headerByte]
    by_cases h0 : a = 0
    · simp [h0]
    · simp only [h0, if_false]
      revert a
      simp only [Fin.forall_iff]
      intro n hn
      interval_cases n <;> simp
  all_goals (iterate 15 try apply Memory.wf_write)
  all_goals rfl

/-- BUILD's buffer, byte by byte: the fields, with the checksums of the final frame in the high nibbles of bytes 7 and
15 (R149, R150). -/
theorem Memory.read_buildBuffer (st : Thermo) (tm : Option Clock) (a : Fin 16) :
    (buildBuffer st tm).read a =
      if a = 15 then join4 (cksum2 (buildBuffer st tm).toFrame) 0x0
      else if a = 7 then join4 (cksum1 (buildBuffer st tm).toFrame) (presetEnc st.preset).1
      else (buildFields st tm []).read a := by
  have h := Memory.read_placeChecksums a (Memory.wf_buildFields st tm (m := []) rfl)
  have r15 : lo4 ((buildFields st tm []).read 15) = 0x0 := by
    rw [Memory.read_buildFields]
    rfl
  have r7 : lo4 ((buildFields st tm []).read 7) = (presetEnc st.preset).1 := by
    rw [Memory.read_buildFields]
    exact lo4_join4 _ _
  rw [r15, r7] at h
  exact h

end Sys2Proof.Machine
end

