-- ==== Sys2Proof/Laws/PerInstr.lean ====
section
/-!
SUPPORT. Laws stated for every operation, one lemma per constructor. Encoding: the operation's word is legal, decodes to
it, and is the word the host's numbering of spec/opcode_table.json gives it (30_encoding.md R90-R92).
-/

namespace Sys2Proof.Laws.Encoding

/-- The word of `i` is legal and decodes to `i`, read as a word and as the table's 8 bits. -/
def Statement (i : Instr) : Prop :=
  legalOp (encode i) = true ∧ decode (encode i) = .ok i ∧ decodeTableWord 8 (encode i).toNat = some i

theorem build : Statement .build := by unfold Statement; decide
theorem parse : Statement .parse := by unfold Statement; decide
theorem validate : Statement .validate := by unfold Statement; decide
theorem encode : Statement .encode := by unfold Statement; decide
theorem decode : Statement .decode := by unfold Statement; decide
theorem bcdEnc : Statement .bcdEnc := by unfold Statement; decide
theorem bcdDec : Statement .bcdDec := by unfold Statement; decide
theorem fanEnc : Statement .fanEnc := by unfold Statement; decide
theorem fanDec : Statement .fanDec := by unfold Statement; decide
theorem modeEnc : Statement .modeEnc := by unfold Statement; decide
theorem modeDec : Statement .modeDec := by unfold Statement; decide
theorem powerEnc : Statement .powerEnc := by unfold Statement; decide
theorem powerDec : Statement .powerDec := by unfold Statement; decide
theorem tempcEnc : Statement .tempcEnc := by unfold Statement; decide
theorem tempfEnc : Statement .tempfEnc := by unfold Statement; decide
theorem clockEnc : Statement .clockEnc := by unfold Statement; decide
theorem presetEnc : Statement .presetEnc := by unfold Statement; decide
theorem presetDec : Statement .presetDec := by unfold Statement; decide
theorem cksum1 : Statement .cksum1 := by unfold Statement; decide
theorem cksum2 : Statement .cksum2 := by unfold Statement; decide
theorem emitBits : Statement .emitBits := by unfold Statement; decide
theorem expectMark : Statement .expectMark := by unfold Statement; decide
theorem expectSpace : Statement .expectSpace := by unfold Statement; decide
theorem expectPair : Statement .expectPair := by unfold Statement; decide
theorem decodeBit : Statement .decodeBit := by unfold Statement; decide
theorem consumeBits : Statement .consumeBits := by unfold Statement; decide

end Sys2Proof.Laws.Encoding
end

