-- ==== Sys2Proof/Laws/Receive.lean ====
section
/-!
SUPPORT. What the receive path answers, as facts about the capture (42_pulse_codec.md R197, R198): a bit, the bits of a
byte and the bytes of a section, where every position reads as a bit and where the first one that does not stands.
-/

namespace Sys2Proof.Machine

/-- The index list gives each index at its own place. -/
theorem idx8_get (n : Fin 8) (h : n.val < idx8.length) : idx8[n.val] = n := by
  revert n
  decide

/-- Every place of a capture reads as a bit, or as none (R197). -/
theorem bitAt_or_noBitAt (tol : Tol) (pt : List Pulse) (k : Nat) : (∃ b, BitAt tol pt k b) ∨ NoBitAt tol pt k := by
  by_cases h1 : PairAt tol pt k 340 1000
  · exact .inl ⟨true, h1⟩
  · by_cases h0 : PairAt tol pt k 340 400
    · exact .inl ⟨false, h1, h0⟩
    · exact .inr ⟨h1, h0⟩

/-- No place reads both as a bit and as none. -/
theorem NoBitAt.not_bitAt {tol : Tol} {pt : List Pulse} {k : Nat} {b : Bool} (h : NoBitAt tol pt k) :
    ¬ BitAt tol pt k b := by
  cases b
  · exact fun h' => h.2 h'.2
  · exact fun h' => h.1 h'

/-- A bit is read where one stands (R197). -/
theorem readBit_of_bitAt {tol : Tol} {pt : List Pulse} {k : Nat} {b : Bool} (d : Dpc) (h : BitAt tol pt k b) :
    readBit tol pt d k = .ok (b, k + 2) := by
  cases b with
  | true =>
    rcases readBit_cases tol pt d k with ⟨-, e⟩ | ⟨h', -, -⟩ | ⟨h', -, -⟩
    · exact e
    · exact absurd h h'
    · exact absurd h h'
  | false =>
    rcases readBit_cases tol pt d k with ⟨h', -⟩ | ⟨-, -, e⟩ | ⟨-, h', -⟩
    · exact absurd h' h.1
    · exact e
    · exact absurd h.2 h'

/-- A reject is raised where no bit stands (R197). -/
theorem readBit_of_noBitAt {tol : Tol} {pt : List Pulse} {k : Nat} (d : Dpc) (h : NoBitAt tol pt k) :
    readBit tol pt d k = .error (.pulse d k) := by
  rcases readBit_cases tol pt d k with ⟨h', -⟩ | ⟨-, h', -⟩ | ⟨-, -, e⟩
  · exact absurd h' h.1
  · exact absurd h' h.2
  · exact e

/-- The bits of a byte that are read where each of them stands (R198, inner loop). -/
theorem readByte_of_bits {tol : Tol} {pt : List Pulse} (e : Fin 9) (i : Fin 8) (v : Byte) (js : List (Fin 8)) (b : Byte)
    (cur : Nat) (h : ∀ n (hn : n < js.length), BitAt tol pt (cur + 2 * n) (v.getLsbD js[n])) :
    readByte tol pt e i js b cur =
      .ok (js.foldl (fun (a : Byte) (j : Fin 8) => a ||| ((if v.getLsbD j then 1 else 0) <<< j.val)) b, cur + 2 * js.length) := by
  induction js generalizing b cur with
  | nil => rfl
  | cons j rest ih =>
    have h0 := readBit_of_bitAt ⟨e, i, j⟩ (h 0 (by simp))
    simp only [List.getElem_cons_zero, Nat.mul_zero, Nat.add_zero] at h0
    have hr := ih (b ||| ((if v.getLsbD j then 1 else 0) <<< j.val)) (cur + 2) fun n hn => by
      have := h (n + 1) (by simpa using hn)
      rwa [show cur + 2 * (n + 1) = cur + 2 + 2 * n by omega] at this
    simp only [readByte, h0, hr, List.foldl_cons, List.length_cons]
    congr 2
    omega

/-- A byte whose eight bits stand in the capture is read whole (R198). -/
theorem readByte_of_bitAt {tol : Tol} {pt : List Pulse} (e : Fin 9) (i : Fin 8) (v : Byte) (cur : Nat)
    (h : ∀ j : Fin 8, BitAt tol pt (cur + 2 * j.val) (v.getLsbD j)) :
    readByte tol pt e i idx8 0x00 cur = .ok (v, cur + 16) := by
  have idx : ∀ n (hn : n < idx8.length), (idx8[n]).val = n := by decide
  have hb := readByte_of_bits e i v idx8 0x00 cur fun n hn => by
    have := h idx8[n]
    rwa [idx n hn] at this ⊢
  have whole : ∀ v : Byte, idx8.foldl (fun (a : Byte) (j : Fin 8) => a ||| ((if v.getLsbD j then 1 else 0) <<< j.val)) 0x00 = v := by decide
  rw [hb, whole]
  rfl

/-- The first place of a byte that reads as no bit is where its reject is raised (R198, R246). -/
theorem readByte_of_noBitAt {tol : Tol} {pt : List Pulse} (e : Fin 9) (i : Fin 8) (js : List (Fin 8)) (b : Byte)
    (cur n : Nat) (hn : n < js.length) (before : ∀ m, m < n → ∃ b, BitAt tol pt (cur + 2 * m) b)
    (here : NoBitAt tol pt (cur + 2 * n)) :
    readByte tol pt e i js b cur = .error (.pulse ⟨e, i, js[n]⟩ (cur + 2 * n)) := by
  induction js generalizing b cur n with
  | nil => exact absurd hn (by simp)
  | cons j rest ih =>
    cases n with
    | zero =>
      have h0 := readBit_of_noBitAt ⟨e, i, j⟩ here
      simp only [readByte, Nat.mul_zero, Nat.add_zero] at h0 ⊢
      simp only [h0, List.getElem_cons_zero]
    | succ n =>
      obtain ⟨b0, hb0⟩ := before 0 (by omega)
      have h0 := readBit_of_bitAt ⟨e, i, j⟩ hb0
      simp only [Nat.mul_zero, Nat.add_zero] at h0
      have hr := ih (b ||| ((if b0 then 1 else 0) <<< j.val)) (cur + 2) n (by simpa using hn)
        (fun m hm => by
          have := before (m + 1) (by omega)
          rwa [show cur + 2 * (m + 1) = cur + 2 + 2 * m by omega] at this)
        (by rwa [show cur + 2 * (n + 1) = cur + 2 + 2 * n by omega] at here)
      simp only [readByte, h0, hr, List.getElem_cons_succ]
      congr 2
      omega

/-- The bytes of a section that are read where all their bits stand (R198, outer loop). -/
theorem readBytes_of_bits {tol : Tol} {pt : List Pulse} (e : Fin 9) (S : Section8) (is : List (Fin 8)) (B : Section8)
    (cur : Nat) (h : ∀ n (hn : n < is.length) (j : Fin 8),
      BitAt tol pt (cur + 16 * n + 2 * j.val) (S[is[n]].getLsbD j)) :
    readBytes tol pt e is B cur = .ok (is.foldl (fun (A : Section8) (i : Fin 8) => A.set i S[i]) B, cur + 16 * is.length) := by
  induction is generalizing B cur with
  | nil => rfl
  | cons i rest ih =>
    have h0 := readByte_of_bitAt e i S[i] cur fun j => by
      have := h 0 (by simp) j
      simpa using this
    have hr := ih (B.set i S[i]) (cur + 16) fun n hn j => by
      have := h (n + 1) (by simpa using hn) j
      rwa [show cur + 16 * (n + 1) + 2 * j.val = cur + 16 + 16 * n + 2 * j.val by omega] at this
    simp only [readBytes, h0, hr, List.foldl_cons, List.length_cons]
    congr 2
    omega

/-- A section whose 64 bits stand in the capture is read whole (R198). -/
theorem consumeBits_of_bitAt {tol : Tol} {pt : List Pulse} (e : Fin 9) (S : Section8) (cur : Nat)
    (h : ∀ i j : Fin 8, BitAt tol pt (cur + 2 * bitNo i j) (S[i].getLsbD j)) :
    consumeBits tol pt e cur = .ok (S, cur + 128) := by
  have idx : ∀ n (hn : n < idx8.length), (idx8[n]).val = n := by decide
  have hb := readBytes_of_bits e S idx8 (Vector.replicate 8 0x00) cur fun n hn j => by
    have hn' := idx n hn
    have := h idx8[n] j
    simp only [bitNo, hn', Nat.mul_add, ← Nat.mul_assoc, ← Nat.add_assoc, Nat.reduceMul] at this
    exact this
  have whole : idx8.foldl (fun (A : Section8) (i : Fin 8) => A.set i S[i]) (Vector.replicate 8 0x00) = S := by
    apply Vector.ext
    intro n hn
    simp only [idx8, List.foldl_cons, List.foldl_nil, Vector.getElem_set]
    interval_cases n <;> simp
  unfold consumeBits
  rw [hb, whole]
  rfl

/-- The first place of a section that reads as no bit is where its reject is raised (R198, R246). -/
theorem readBytes_of_noBitAt {tol : Tol} {pt : List Pulse} (e : Fin 9) (j : Fin 8) (is : List (Fin 8)) (B : Section8)
    (cur n : Nat) (hn : n < is.length) (before : ∀ m, m < 8 * n + j.val → ∃ b, BitAt tol pt (cur + 2 * m) b)
    (here : NoBitAt tol pt (cur + 2 * (8 * n + j.val))) :
    readBytes tol pt e is B cur = .error (.pulse ⟨e, is[n], j⟩ (cur + 2 * (8 * n + j.val))) := by
  induction is generalizing B cur n with
  | nil => exact absurd hn (by simp)
  | cons i rest ih =>
    cases n with
    | zero =>
      have h0 := readByte_of_noBitAt e i idx8 0x00 cur j.val j.isLt (fun m hm => before m (by omega))
        (by simpa using here)
      rw [idx8_get j j.isLt] at h0
      simp only [readBytes, h0, List.getElem_cons_zero, Nat.mul_zero, Nat.zero_add]
    | succ n =>
      have bits : ∀ m, ∃ b, m < 8 → BitAt tol pt (cur + 2 * m) b := fun m => by
        by_cases hm : m < 8
        · obtain ⟨b, hb⟩ := before m (by omega)
          exact ⟨b, fun _ => hb⟩
        · exact ⟨false, fun h => absurd h hm⟩
      choose f hf using bits
      have h0 := readByte_of_bitAt e i (BitVec.ofFnLE fun j : Fin 8 => f j.val) cur fun j => by
        have := hf j.val j.isLt
        simpa [BitVec.getLsbD_ofFnLE] using this
      have hr := ih (B.set i (BitVec.ofFnLE fun j : Fin 8 => f j.val)) (cur + 16) n (by simpa using hn)
        (fun m hm => by
          have := before (m + 8) (by omega)
          rwa [show cur + 2 * (m + 8) = cur + 16 + 2 * m by omega] at this)
        (by rwa [show cur + 2 * (8 * (n + 1) + j.val) = cur + 16 + 2 * (8 * n + j.val) by omega] at here)
      simp only [readBytes, h0, hr, List.getElem_cons_succ]
      congr 2
      omega

/-- CONSUME_BITS rejects at the first bit (i, j) that cannot be read (R198, R246). -/
theorem consumeBits_of_noBitAt {tol : Tol} {pt : List Pulse} (e : Fin 9) (cur : Nat) (i j : Fin 8)
    (before : ∀ i' j' : Fin 8, bitNo i' j' < bitNo i j → ∃ b, BitAt tol pt (cur + 2 * bitNo i' j') b)
    (here : NoBitAt tol pt (cur + 2 * bitNo i j)) :
    consumeBits tol pt e cur = .error (.pulse ⟨e, i, j⟩ (cur + 2 * bitNo i j)) := by
  have h := readBytes_of_noBitAt e j idx8 (Vector.replicate 8 0x00) cur i.val i.isLt
    (fun m hm => by
      have lt : m < 64 := by omega
      have := before ⟨m / 8, by omega⟩ ⟨m % 8, by omega⟩ (by simp only [bitNo]; omega)
      simpa only [bitNo, Nat.div_add_mod] using this)
    here
  rw [idx8_get i i.isLt] at h
  exact h

/-- Every section reads as eight bytes, or has a first place that reads as no bit. -/
theorem section_cases (tol : Tol) (pt : List Pulse) (cur : Nat) :
    (∃ S : Section8, ∀ i j : Fin 8, BitAt tol pt (cur + 2 * bitNo i j) (S[i].getLsbD j)) ∨
    ∃ i j : Fin 8, (∀ i' j' : Fin 8, bitNo i' j' < bitNo i j → ∃ b, BitAt tol pt (cur + 2 * bitNo i' j') b) ∧
      NoBitAt tol pt (cur + 2 * bitNo i j) := by
  by_cases h : ∃ m, m < 64 ∧ NoBitAt tol pt (cur + 2 * m)
  · classical
    right
    have lt := (Nat.find_spec h).1
    have no := (Nat.find_spec h).2
    have first : ∀ m, m < Nat.find h → ∃ b, BitAt tol pt (cur + 2 * m) b := fun m hm => by
      rcases bitAt_or_noBitAt tol pt (cur + 2 * m) with hb | hb
      · exact hb
      · exact absurd ⟨by omega, hb⟩ (Nat.find_min h hm)
    have place : 8 * (Nat.find h / 8) + Nat.find h % 8 = Nat.find h := Nat.div_add_mod _ _
    refine ⟨⟨Nat.find h / 8, by omega⟩, ⟨Nat.find h % 8, by omega⟩, fun i' j' hlt => first _ ?_, ?_⟩
    · simp only [bitNo, place] at hlt ⊢
      exact hlt
    · simp only [bitNo, place]
      exact no
  · left
    have bits : ∀ m, ∃ b, m < 64 → BitAt tol pt (cur + 2 * m) b := fun m => by
      rcases bitAt_or_noBitAt tol pt (cur + 2 * m) with ⟨b, hb⟩ | hb
      · exact ⟨b, fun _ => hb⟩
      · exact ⟨false, fun hm => absurd ⟨m, hm, hb⟩ h⟩
    choose f hf using bits
    refine ⟨Vector.ofFn fun i => BitVec.ofFnLE fun j => f (bitNo i j), fun i j => ?_⟩
    have := hf (bitNo i j) (by simp only [bitNo]; omega)
    simpa [BitVec.getLsbD_ofFnLE] using this

end Sys2Proof.Machine
end

