-- ==== Sys2Proof/Tests/Slice0.lean ====
section
/-!
SUPPORT. Tests. Expected results are those of spec/95_test_vectors.md (the vector's id is in each comment) or of the
spec's tables; each test is one decoding or one step.
-/

namespace Sys2Proof.Tests

open Sys2Proof.Machine

/-- What a caller sees after one step. -/
def seen (o : Host.Outcome State Fault Refusal) : Option (Status × Result × Bool × Bool) :=
  match o with
  | .next t => some (t.status, t.result, t.publish, t.faulted)
  | .fault _ => none
  | .refused _ => none

/-- One operation issued from reset with the operand ports `x`. -/
def run (i : Instr) (x : Inputs) : Option (Status × Result × Bool × Bool) := seen (step (State.reset.issue i x))

/-- An operation that ends in OK with result `r`. -/
def okWith (r : Result) : Option (Status × Result × Bool × Bool) := some (.ok, r, false, false)

/-- An operation that ends in a reject. -/
def rejectWith (r : Reject) : Option (Status × Result × Bool × Bool) := some (.reject r, .absent, false, false)

/-- An operation that ends in FAULT(BAD_OPERAND). -/
def badOperand : Option (Status × Result × Bool × Bool) := some (.fault .badOperand, .absent, false, true)

/-! ## Decoding: words written out bit by bit from R90 and R91 -/

theorem test_decode_build : decode 0b00000001 = .ok .build := by decide
theorem test_decode_parse : decode 0b00000010 = .ok .parse := by decide
theorem test_decode_validate : decode 0b00000011 = .ok .validate := by decide
theorem test_decode_encode : decode 0b00000100 = .ok .encode := by decide
theorem test_decode_decode : decode 0b00000101 = .ok .decode := by decide
theorem test_decode_bcdEnc : decode 0b00010000 = .ok .bcdEnc := by decide
theorem test_decode_bcdDec : decode 0b00010001 = .ok .bcdDec := by decide
theorem test_decode_fanEnc : decode 0b00010010 = .ok .fanEnc := by decide
theorem test_decode_fanDec : decode 0b00010011 = .ok .fanDec := by decide
theorem test_decode_modeEnc : decode 0b00010100 = .ok .modeEnc := by decide
theorem test_decode_modeDec : decode 0b00010101 = .ok .modeDec := by decide
theorem test_decode_powerEnc : decode 0b00010110 = .ok .powerEnc := by decide
theorem test_decode_powerDec : decode 0b00010111 = .ok .powerDec := by decide
theorem test_decode_tempcEnc : decode 0b00011000 = .ok .tempcEnc := by decide
theorem test_decode_tempfEnc : decode 0b00011001 = .ok .tempfEnc := by decide
theorem test_decode_clockEnc : decode 0b00011010 = .ok .clockEnc := by decide
theorem test_decode_presetEnc : decode 0b00011011 = .ok .presetEnc := by decide
theorem test_decode_presetDec : decode 0b00011100 = .ok .presetDec := by decide
theorem test_decode_cksum1 : decode 0b00011101 = .ok .cksum1 := by decide
theorem test_decode_cksum2 : decode 0b00011110 = .ok .cksum2 := by decide
theorem test_decode_emitBits : decode 0b00100000 = .ok .emitBits := by decide
theorem test_decode_expectMark : decode 0b00100001 = .ok .expectMark := by decide
theorem test_decode_expectSpace : decode 0b00100010 = .ok .expectSpace := by decide
theorem test_decode_expectPair : decode 0b00100011 = .ok .expectPair := by decide
theorem test_decode_decodeBit : decode 0b00100100 = .ok .decodeBit := by decide
theorem test_decode_consumeBits : decode 0b00100101 = .ok .consumeBits := by decide

/-- I1 to I6: illegal words are refused by name. -/
theorem test_decode_illegal : [0x00, 0x06, 0x0F, 0x1F, 0x26, 0xFF].map decode =
    [0x00, 0x06, 0x0F, 0x1F, 0x26, 0xFF].map (fun w => .error (.illegalOp w)) := by decide

/-! ## Well-formedness smoke tests: one ill-formed term for each check -/

theorem test_wf_illegalOp : [0x00, 0x06, 0x0F, 0x1F, 0x26, 0xFF].all (fun w => !legalOp w) = true := by decide
theorem test_wf_mode : Inputs.wf .build { resetInputs with mode := 6 } = false := by decide
theorem test_wf_modeEnc : Inputs.wf .modeEnc { resetInputs with mode := 7 } = false := by decide
theorem test_wf_preset : Inputs.wf .build { resetInputs with preset := 3 } = false := by decide
theorem test_wf_presetEnc : Inputs.wf .presetEnc { resetInputs with preset := 3 } = false := by decide
theorem test_wf_temp : Inputs.wf .build { resetInputs with targetC := .nonFinite } = false := by decide
theorem test_wf_tempcEnc : Inputs.wf .tempcEnc { resetInputs with targetC := .pair ⟨1, 0⟩ } = false := by decide
theorem test_wf_tempfEnc : Inputs.wf .tempfEnc { resetInputs with targetC := .pair ⟨1, -1⟩ } = false := by decide
theorem test_wf_value : Inputs.wf .bcdEnc { resetInputs with value := 100 } = false := by decide
theorem test_wf_good : Inputs.wf .build resetInputs = true := by decide

/-! ## The step -/

/-- P6, line 2: an illegal `OP` is FAULT(ILLEGAL_OP). -/
theorem test_step_illegal : seen (step { State.reset with op := 0x06 }) =
    some (.fault .illegalOp, .absent, false, true) := by decide

/-! ## The frame builder and parser -/

/-- The frame B1 of the vectors. -/
def b1 : Frame := #v[0x16, 0x22, 0, 0, 0, 0, 0x24, 0x10, 0, 0, 0x08, 0x75, 0, 0, 0, 0x40]

/-- B1: COOL, HIGH, 24, NONE, no time. -/
theorem test_build_b1 : run .build { resetInputs with mode := 1, fan := 3, targetC := .pair ⟨24, 1⟩ } =
    okWith (.frame b1) := by decide

/-- B3: HEAT, LOW, 21.6, SLEEP, at 7:30:15. -/
theorem test_build_b3 : run .build { resetInputs with
      mode := 2, fan := 1, targetC := .pair ⟨108, 5⟩, preset := 2, time := ⟨true, 7, 30, 15⟩ } =
    okWith (.frame #v[0x16, 0x88, 0x30, 0x07, 0, 0, 0x22, 0x72, 0, 0, 0x08, 0x71, 0, 0, 0x15, 0x60]) := by decide

/-- Q16: both preset flags set, ECO wins; PUBLISH is 1. -/
theorem test_parse_q16 : run .parse { resetInputs with
      frame := #v[0x16, 0x22, 0, 0, 0, 0, 0x24, 0x32, 0, 0, 0x08, 0x75, 0x04, 0, 0, 0x80] } =
    some (.ok, .decoded ⟨.on, .cool, .high, 24, .eco⟩, true, false) := by decide

/-- Q14: power off overrides the mode nibble of heat; the preset is still decoded. -/
theorem test_parse_q14 : run .parse { resetInputs with
      frame := #v[0x16, 0x48, 0, 0, 0, 0, 0x20, 0x72, 0, 0, 0x0C, 0x68, 0, 0, 0, 0xA0] } =
    some (.ok, .decoded ⟨.off, .off, .medium, 20, .sleep⟩, true, false) := by decide

/-- Q15: unnamed bits and the low nibble of byte 15 are summed, not checked. -/
theorem test_validate_q15 : run .validate { resetInputs with
      frame := #v[0x16, 0x22, 0, 0, 0xAA, 0, 0x24, 0xA5, 0, 0, 0xF8, 0x75, 0xFB, 0, 0, 0xCF] } =
    okWith .valid := by decide

/-- Q11: header and checksum-1 both wrong, the header is reported. -/
theorem test_validate_q11 : run .validate { resetInputs with
      frame := #v[0x17, 0x22, 0, 0, 0, 0, 0x24, 0x00, 0, 0, 0x08, 0x75, 0, 0, 0, 0x40] } =
    rejectWith (.header 0x17) := by decide

/-- C6 and C7. -/
theorem test_bcdEnc_c6 : run .bcdEnc { resetInputs with value := 99 } = okWith (.byte 0x99) := by decide
theorem test_bcdEnc_c7 : run .bcdEnc { resetInputs with value := 100 } = badOperand := by decide

/-- C12: a digit above 9 is decoded arithmetically. -/
theorem test_bcdDec_c12 : run .bcdDec { resetInputs with byte := 0x9F } = okWith (.nat 105) := by decide

/-- F2: LOW. -/
theorem test_fanEnc_f2 : run .fanEnc { resetInputs with fan := 1 } = okWith (.nibble 0x8) := by decide

/-- F5 and F6: a code, and an unrecognised nibble. -/
theorem test_fanDec_f5 : run .fanDec { resetInputs with nibble := 0x4 } = okWith (.fan .medium) := by decide
theorem test_fanDec_f6 : run .fanDec { resetInputs with nibble := 0xF } = okWith (.fan .auto) := by decide

/-- M5 and M9. -/
theorem test_modeEnc_m5 : run .modeEnc { resetInputs with mode := 5 } = okWith (.nibble 0xA) := by decide
theorem test_modeEnc_m9 : run .modeEnc { resetInputs with mode := 6 } = badOperand := by decide

/-- M7 and M8. -/
theorem test_modeDec_m7 : run .modeDec { resetInputs with nibble := 0x1 } = okWith (.mode .dry) := by decide
theorem test_modeDec_m8 : run .modeDec { resetInputs with nibble := 0xB } = okWith (.mode .cool) := by decide

/-- W2. -/
theorem test_powerEnc_w2 : run .powerEnc { resetInputs with power := 0 } = okWith (.byte 0x0C) := by decide

/-- W5 and W8. -/
theorem test_powerDec_w5 : run .powerDec { resetInputs with byte := 0xFC } = okWith (.power .off) := by decide
theorem test_powerDec_w8 : run .powerDec { resetInputs with byte := 0xC0 } = okWith (.power .on) := by decide

/-- T12 (a tie) and T1 (below the clamp, negative). -/
theorem test_tempcEnc_t12 : run .tempcEnc { resetInputs with targetC := .pair ⟨45, 2⟩ } = okWith (.byte 0x23) := by decide
theorem test_tempcEnc_t1 : run .tempcEnc { resetInputs with targetC := .pair ⟨-40, 1⟩ } = okWith (.byte 0x16) := by decide

/-- T7 (from the unclamped value) and I8 (a value that is not finite). -/
theorem test_tempfEnc_t7 : run .tempfEnc { resetInputs with targetC := .pair ⟨164, 10⟩ } = okWith (.byte 0x62) := by decide
theorem test_tempfEnc_i8 : run .tempfEnc { resetInputs with targetC := .nonFinite } = badOperand := by decide

/-- K3 and K8. -/
theorem test_clockEnc_k3 : run .clockEnc { resetInputs with time := ⟨true, 13, 45, 7⟩ } =
    okWith (.clock 0x45 0x13 0x07) := by decide
theorem test_clockEnc_k8 : run .clockEnc { resetInputs with time := ⟨true, 12, 0, 60⟩ } =
    okWith (.clock 0x00 0x00 0x00) := by decide

/-- S3 and S4. -/
theorem test_presetEnc_s3 : run .presetEnc { resetInputs with preset := 2 } = okWith (.presetBits 0x2 0x00) := by decide
theorem test_presetEnc_s4 : run .presetEnc { resetInputs with preset := 3 } = badOperand := by decide

/-- S8 and S9. -/
theorem test_presetDec_s8 : run .presetDec { resetInputs with byte7 := 0x32, byte12 := 0x04 } =
    okWith (.preset .eco) := by decide
theorem test_presetDec_s9 : run .presetDec { resetInputs with byte7 := 0xFD, byte12 := 0xFB } =
    okWith (.preset .none) := by decide

/-- K4S: the high nibble of byte 7 is not summed. -/
theorem test_cksum1_k4s : run .cksum1 { resetInputs with
      frame := #v[0x16, 0x22, 0, 0, 0, 0, 0x24, 0xF0, 0, 0, 0, 0, 0, 0, 0, 0] } = okWith (.nibble 0x1) := by decide

/-- K5S: a sum, where an XOR would give 0xA. -/
theorem test_cksum2_k5s : run .cksum2 { resetInputs with frame := b1 } = okWith (.nibble 0x4) := by decide

/-! ## The pulse codec -/

/-- The spaces of a pulse list, in order. -/
def spaces (p : List Pulse) : List Nat := (p.filter (fun q => decide (q.level = .space))).map Pulse.dur

/-- The pulse list that a step leaves in PT_OUT. -/
def emitted (i : Instr) (x : Inputs) : List Pulse :=
  match step (State.reset.issue i x) with
  | .next t => t.ptOut
  | .fault _ => []
  | .refused _ => []

/-- X1: the byte 0x16, least significant bit first. -/
theorem test_emitBits_x1 : (spaces (emitted .emitBits { resetInputs with bytes := #v[0x16, 0, 0, 0, 0, 0, 0, 0] })).take 8 =
    [400, 1000, 1000, 400, 1000, 400, 400, 400] := by decide

/-- The fixed pulses of section 2's start and of the end of B1's train (2.10). -/
theorem test_encode_fixed :
    ((emitted .encode { resetInputs with frame := b1 }).drop 130).take 6 =
      [⟨.mark, 340⟩, ⟨.space, 20600⟩, ⟨.mark, 4600⟩, ⟨.space, 6700⟩, ⟨.mark, 9300⟩, ⟨.space, 5000⟩] := by decide

/-- The spaces of byte 11 of B1, at pulses 184 to 199 (2.10). -/
theorem test_encode_byte11 : spaces (((emitted .encode { resetInputs with frame := b1 }).drop 184).take 16) =
    [1000, 400, 1000, 400, 1000, 1000, 1000, 400] := by decide

/-- Y1 and Y3. -/
theorem test_expectMark_y1 : run .expectMark { resetInputs with markDur := 4600, ptIn := [⟨.mark, 4600⟩] } =
    okWith (.matched true 1) := by decide
theorem test_expectMark_y3 : run .expectMark { resetInputs with markDur := 4600, ptIn := [⟨.space, 4600⟩] } =
    okWith (.matched false 0) := by decide

/-- Y5 and Y6. -/
theorem test_expectSpace_y5 : run .expectSpace { resetInputs with spaceDur := 2600, ptIn := [⟨.space, 2600⟩] } =
    okWith (.matched true 1) := by decide
theorem test_expectSpace_y6 : run .expectSpace { resetInputs with spaceDur := 2600, ptIn := [⟨.mark, 2600⟩] } =
    okWith (.matched false 0) := by decide

/-- Y7 and Y8. -/
theorem test_expectPair_y7 : run .expectPair { resetInputs with
      markDur := 340, spaceDur := 1000, ptIn := [⟨.mark, 340⟩, ⟨.space, 400⟩] } = okWith (.matched false 0) := by decide
theorem test_expectPair_y8 : run .expectPair { resetInputs with
      markDur := 340, spaceDur := 400, ptIn := [⟨.mark, 340⟩, ⟨.space, 400⟩] } = okWith (.matched true 2) := by decide

/-- Z2 and Z3. -/
theorem test_decodeBit_z2 : run .decodeBit { resetInputs with ptIn := [⟨.mark, 340⟩, ⟨.space, 400⟩] } =
    okWith (.bit false 2) := by decide
theorem test_decodeBit_z3 : run .decodeBit { resetInputs with ptIn := [⟨.mark, 340⟩, ⟨.space, 20600⟩] } =
    rejectWith (.pulse ⟨0, 0, 0⟩ 0) := by decide

/-- Z6: pulses 2 to 129 of B1's train, from cursor 2. -/
theorem test_consumeBits_z6 : run .consumeBits { resetInputs with ptIn := encodeTrain b1, cur := 2 } =
    okWith (.bytes #v[0x16, 0x22, 0, 0, 0, 0, 0x24, 0x10] 130) := by decide

/-- Z7: pulses 0 to 17 only; byte 1 bit 0 is missing. -/
theorem test_consumeBits_z7 : run .consumeBits { resetInputs with ptIn := (encodeTrain b1).take 18, cur := 2 } =
    rejectWith (.pulse ⟨0, 1, 0⟩ 18) := by decide

/-- D1. -/
theorem test_decode_d1 : run .decode { resetInputs with ptIn := encodeTrain b1 } = okWith (.frame b1) := by decide

/-- D2: a section-2 header with section-1 timing. -/
theorem test_decode_d2 : run .decode { resetInputs with
      ptIn := (encodeTrain b1).take 134 ++ [⟨.mark, 4600⟩, ⟨.space, 2600⟩] ++ (encodeTrain b1).drop 136 } =
    rejectWith (.pulse ⟨4, 0, 0⟩ 134) := by decide

/-! ## Witnesses: for each statement with hypotheses, a state and operands that meet them -/

/-- Reset with other operand ports. -/
def on (x : Inputs) : State := { State.reset with inp := x }

/-- What `seen` shows of an operation that ends in OK. -/
theorem completes_of_seen {i : Instr} {x : Inputs} {r : Result}
    (h : seen (exec i (on x)) = some (.ok, r, decide (i = .parse), false)) : Completes i (on x) r := by
  obtain ⟨t, ht⟩ := exec_next i (on x)
  rw [ht] at h
  simp only [seen, Option.some.injEq, Prod.mk.injEq] at h
  exact ⟨t, ht, h.1, h.2.1, h.2.2.2⟩

/-- What `seen` shows of an operation that ends in a reject. -/
theorem rejects_of_seen {i : Instr} {x : Inputs} {e : Reject} (h : seen (exec i (on x)) = rejectWith e) :
    Rejects i (on x) e := by
  obtain ⟨t, ht⟩ := exec_next i (on x)
  rw [ht] at h
  simp only [seen, rejectWith, Option.some.injEq, Prod.mk.injEq] at h
  exact ⟨t, ht, h.1, h.2.1, h.2.2.1, h.2.2.2⟩

/-- The ports of the vector B1. -/
def xB1 : Inputs := { resetInputs with mode := 1, fan := 3, targetC := .pair ⟨24, 1⟩ }

/-- Its thermostat state. -/
def stB1 : Thermo := ⟨.cool, .high, ⟨24, 1⟩, .none⟩

/-- The ports with the frame B1, and with another frame. -/
def xF (F : Frame) : Inputs := { resetInputs with frame := F }

/-- The ports with a capture and a cursor. -/
def xP (p : List Pulse) (k : Nat) : Inputs := { resetInputs with ptIn := p, cur := k }

theorem witness_DecodeEncodeAgree : (0xFF : Nat) < 256 ∧ (encode .build).toNat = 1 ∧ (1 : Nat) < 256 := by decide

theorem witness_IllegalOpFaults : ∀ w ∈ [0x00, 0x06, 0x0F, 0x1F, 0x26, 0xFF], ∀ i : Instr,
    encode i ≠ { State.reset with op := w }.op := by
  intro w hw i
  revert w
  cases i <;> decide

theorem witness_StepRunsDecoded : decode { State.reset with op := 0x25 }.op = .ok .consumeBits := by decide

/-- A state that is no start: an operation has faulted, and FB and PT_OUT hold something. -/
def used : State := { State.reset with faulted := true, fb := [(15, 0x40)], ptOut := emitBits (Vector.replicate 8 0x00) }

theorem witness_StepKeepsInvariant : used.Inv ∧ ∃ t, step used = .next t := by
  refine ⟨⟨by decide, ?_, ?_, by decide, .inr (.inl ?_)⟩, _, rfl⟩ <;> simp [used, State.reset]

theorem witness_step : ∃ t, step (State.reset.issue .fanEnc resetInputs) = .next t := ⟨_, rfl⟩

theorem witness_NothingSurvivesButFaulted : used ≠ State.reset ∧ used.op = State.reset.op ∧
    used.inp = State.reset.inp ∧ used.tol = State.reset.tol := ⟨by decide, rfl, rfl, rfl⟩

theorem witness_RejectTable_header : Rejects .parse (on (xF (b1.set 0 0x17))) (.header 0x17) := rejects_of_seen (by decide)
theorem witness_RejectTable_cksum1 : Rejects .validate (on (xF (b1.set 7 0x00))) (.cksum1 0x0 0x1) := rejects_of_seen (by decide)
theorem witness_RejectTable_cksum2 : Rejects .validate (on (xF (b1.set 15 0xF0))) (.cksum2 0xF 0x4) := rejects_of_seen (by decide)
theorem witness_RejectTable_pulse : Rejects .decode (on (xP [] 0)) (.pulse ⟨0, 0, 0⟩ 0) ∧
    Rejects .decodeBit (on (xP [] 3)) (.pulse ⟨0, 0, 0⟩ 3) ∧
    Rejects .consumeBits (on (xP [⟨.mark, 340⟩, ⟨.space, 400⟩] 0)) (.pulse ⟨0, 0, 1⟩ 2) :=
  ⟨rejects_of_seen (by decide), rejects_of_seen (by decide), rejects_of_seen (by decide)⟩
theorem witness_RejectTable_ok : Completes .parse (on (xF b1)) (.decoded ⟨.on, .cool, .high, 24, .none⟩) ∧
    Completes .decodeBit (on (xP [⟨.mark, 340⟩, ⟨.space, 400⟩] 0)) (.bit false 2) :=
  ⟨completes_of_seen (by decide), completes_of_seen (by decide)⟩
theorem witness_RejectTable_okDecode : Completes .decode (on (xP (encodeTrain b1) 0)) (.frame b1) :=
  completes_of_seen (by decide)
theorem witness_RejectTable_okBits :
    Completes .consumeBits (on (xP (emitBits (Vector.replicate 8 0x00)) 0)) (.bytes (Vector.replicate 8 0x00) 128) :=
  completes_of_seen (by decide)

theorem witness_FaultTable : (∀ q, (on resetInputs).inp.targetC = .pair q → 0 < q.den) ∧
    ∃ t, step (on resetInputs) = .next t := by
  refine ⟨fun q h => ?_, _, rfl⟩
  cases h
  decide

theorem witness_InterfaceCodes_mode : (on { resetInputs with mode := 6 }).inp.mode = 6 ∧
    (on { resetInputs with mode := 7 }).inp.mode = 7 := by decide
theorem witness_InterfaceCodes_preset : (on { resetInputs with preset := 3 }).inp.preset = 3 := by decide
theorem witness_InterfaceCodes_temp : (on { resetInputs with targetC := .nonFinite }).inp.targetC = .nonFinite ∧
    ∃ q, (on { resetInputs with targetC := .pair ⟨1, 0⟩ }).inp.targetC = .pair q ∧ q.den ≤ 0 :=
  ⟨rfl, ⟨1, 0⟩, rfl, by decide⟩

theorem witness_WritersOfTheSpaces_build : Completes .build (on xB1) (.frame b1) := completes_of_seen (by decide)
theorem witness_WritersOfTheSpaces_frame : Completes .cksum2 (on (xF b1)) (.nibble 0x4) := completes_of_seen (by decide)
theorem witness_WritersOfTheSpaces_plain : Completes .fanEnc (on resetInputs) (.nibble 0x1) := completes_of_seen (by decide)

theorem witness_BcdEncPacks_value : (on { resetInputs with value := 0 }).inp.value ≤ 99 ∧
    (on { resetInputs with value := 99 }).inp.value ≤ 99 ∧ 99 < (on { resetInputs with value := 100 }).inp.value := by decide
theorem witness_BcdEncPacks_callers : (99 : Nat) ≤ 99 ∧ (0 : Int) < (⟨159, 10⟩ : Ratio).den ∧
    clockEnc (some ⟨23, 59, 59⟩) ≠ (0x00, 0x00, 0x00) := by decide
theorem witness_BcdDecReads : (0 : Nat) ≤ 99 ∧ (99 : Nat) ≤ 99 := by decide

theorem witness_ModeCodes : (on { resetInputs with mode := 5 }).inp.mode.toNat < 6 ∧
    6 ≤ (on { resetInputs with mode := 6 }).inp.mode.toNat ∧ Mode.cool ≠ .off := by decide

theorem witness_TempcEncRounds : (on { resetInputs with targetC := .pair ⟨-7, 1⟩ }).inp.targetC = .pair ⟨-7, 1⟩ ∧
    (0 : Int) < (⟨-7, 1⟩ : Ratio).den := by decide
theorem witness_TempfEncRounds : (on { resetInputs with targetC := .pair ⟨223, 10⟩ }).inp.targetC = .pair ⟨223, 10⟩ ∧
    (0 : Int) < (⟨223, 10⟩ : Ratio).den := by decide
theorem witness_ClampRoundCommute : (0 : Int) < (⟨59, 2⟩ : Ratio).den ∧ (16 : Int) ≤ 30 ∧ (16 : Int) ≤ 16 := by decide
theorem witness_FahrenheitIsIndependent : (0 : Int) < (⟨164, 10⟩ : Ratio).den := by decide

theorem witness_PresetEncFlags : (on { resetInputs with preset := 2 }).inp.preset.toNat < 3 ∧
    (on { resetInputs with preset := 3 }).inp.preset = 3 := by decide
theorem witness_PresetEncFlags_build : Completes .build (on { xB1 with preset := 2 })
    (.frame #v[0x16, 0x22, 0, 0, 0, 0, 0x24, 0x32, 0, 0, 0x08, 0x75, 0, 0, 0, 0x40]) := completes_of_seen (by decide)

theorem witness_Cksum1Sums : b1 ≠ b1.set 7 0xF0 ∧ (∀ a : Fin 16, a.val < 7 → b1[a] = (b1.set 7 0xF0)[a]) ∧
    lo4 b1[7] = lo4 (b1.set 7 0xF0)[7] := by decide
theorem witness_Cksum1Sums_header : ∃ F : Frame, F[0] = 0x16 ∧ (∀ a : Fin 16, 1 ≤ a.val → a.val < 7 → F[a] = 0x00) ∧
    lo4 F[7] = 0x0 := ⟨(Vector.replicate 16 0x00).set 0 0x16, by decide⟩
theorem witness_Cksum2Sums : b1 ≠ b1.set 15 0xF0 ∧
    (∀ a : Fin 16, 8 ≤ a.val → a.val < 15 → b1[a] = (b1.set 15 0xF0)[a]) ∧
    lo4 b1[15] = lo4 (b1.set 15 0xF0)[15] := by decide
theorem witness_Cksum2Sums_build : Completes .build (on xB1) (.frame b1) := witness_WritersOfTheSpaces_build

theorem witness_BuildFrameBytes : thermoOf (on xB1).inp = some stB1 ∧ (on xB1).inp.mode = 1 ∧ (on xB1).inp.fan = 3 ∧
    (on xB1).inp.targetC = .pair ⟨24, 1⟩ ∧ (on xB1).inp.preset = 0 ∧ (on xB1).inp.time.valid = false := by decide
theorem witness_BuildThenParse : thermoOf (on xB1).inp = some stB1 ∧ Completes .build (on xB1) (.frame b1) :=
  ⟨by decide, witness_WritersOfTheSpaces_build⟩

theorem witness_ValidateTests_header : (on (xF (b1.set 0 0x17))).inp.frame[0] ≠ 0x16 := by decide
theorem witness_ValidateTests_cksum1 : (on (xF (b1.set 7 0x00))).inp.frame[0] = 0x16 ∧
    hi4 (on (xF (b1.set 7 0x00))).inp.frame[7] ≠ cksum1 (on (xF (b1.set 7 0x00))).inp.frame := by decide
theorem witness_ValidateTests_cksum2 : (on (xF (b1.set 15 0xF0))).inp.frame[0] = 0x16 ∧
    hi4 (on (xF (b1.set 15 0xF0))).inp.frame[7] = cksum1 (on (xF (b1.set 15 0xF0))).inp.frame ∧
    hi4 (on (xF (b1.set 15 0xF0))).inp.frame[15] ≠ cksum2 (on (xF (b1.set 15 0xF0))).inp.frame := by decide
theorem witness_ValidateTests_ok : (on (xF b1)).inp.frame[0] = 0x16 ∧
    hi4 (on (xF b1)).inp.frame[7] = cksum1 (on (xF b1)).inp.frame ∧
    hi4 (on (xF b1)).inp.frame[15] = cksum2 (on (xF b1)).inp.frame := by decide

theorem witness_ParseDecodes_reject : Rejects .validate (on (xF (b1.set 0 0x17))) (.header 0x17) := rejects_of_seen (by decide)
theorem witness_ParseDecodes_ok : Completes .validate (on (xF b1)) .valid := completes_of_seen (by decide)
theorem witness_SingleBitErrorsRejected : Completes .validate (on (xF b1)) .valid ∧ (0 : Fin 16).val = 0 ∧
    1 ≤ (1 : Fin 16).val ∧ (7 : Fin 16).val ≤ 7 ∧ 8 ≤ (8 : Fin 16).val := ⟨witness_ParseDecodes_ok, by decide⟩
theorem witness_PowerGovernsMode : ∃ F : Frame, Completes .validate (on (xF F)) .valid ∧
    lo4 (on (xF F)).inp.frame[10] = 0xC :=
  ⟨#v[0x16, 0x48, 0, 0, 0, 0, 0x20, 0x72, 0, 0, 0x0C, 0x68, 0, 0, 0, 0xA0], completes_of_seen (by decide), by decide⟩

theorem witness_encode (F : Frame) : Completes .encode (on (xF F)) (.train (encodeTrain F) 38000) :=
  ⟨_, exec_encode _, rfl, rfl, rfl⟩
theorem witness_TrainShape : Completes .encode (on (xF b1)) (.train (encodeTrain b1) 38000) ∧
    Completes .encode (on (xF (b1.set 1 0x00))) (.train (encodeTrain (b1.set 1 0x00)) 38000) ∧
    ∀ k ∈ [0, 1, 2, 128, 130, 131, 136, 264, 266], ¬ (k % 2 = 1 ∧ (3 ≤ k ∧ k ≤ 129 ∨ 137 ≤ k ∧ k ≤ 263)) :=
  ⟨witness_encode _, witness_encode _, by decide⟩
theorem witness_TrainAirtime : Completes .encode (on (xF b1)) (.train (encodeTrain b1) 38000) := witness_encode _

/-- A mark of 4600 and a space of 2600. -/
def hdr : List Pulse := [⟨.mark, 4600⟩, ⟨.space, 2600⟩]

theorem witness_ExpectMarkChecks_match : ∃ p, hdr[0]? = some p ∧ p.level = .mark ∧
    tolMatch exactWindows .mark 4600 p.dur = true := ⟨⟨.mark, 4600⟩, by decide⟩
theorem witness_ExpectMarkChecks_fail : (∃ p, hdr[1]? = some p ∧
      (p.level = .space ∨ tolMatch exactWindows .mark 2600 p.dur = false)) ∧
    ∃ p, hdr[0]? = some p ∧ (p.level = .space ∨ tolMatch exactWindows .mark 340 p.dur = false) :=
  ⟨⟨⟨.space, 2600⟩, by decide⟩, ⟨.mark, 4600⟩, by decide⟩
theorem witness_ExpectMarkChecks_past : (on (xP hdr 2)).inp.ptIn.length ≤ (on (xP hdr 2)).inp.cur := by decide
theorem witness_ExpectSpaceChecks_match : ∃ p, hdr[1]? = some p ∧ p.level = .space ∧
    tolMatch exactWindows .space 2600 p.dur = true := ⟨⟨.space, 2600⟩, by decide⟩
theorem witness_ExpectSpaceChecks_fail : (∃ p, hdr[0]? = some p ∧
      (p.level = .mark ∨ tolMatch exactWindows .space 4600 p.dur = false)) ∧
    ∃ p, hdr[1]? = some p ∧ (p.level = .mark ∨ tolMatch exactWindows .space 400 p.dur = false) :=
  ⟨⟨⟨.mark, 4600⟩, by decide⟩, ⟨.space, 2600⟩, by decide⟩
theorem witness_ExpectSpaceChecks_past : (on (xP [] 0)).inp.ptIn.length ≤ (on (xP [] 0)).inp.cur := by decide
theorem witness_ExpectPairChecks_match : ∃ p q, hdr[0]? = some p ∧ hdr[0 + 1]? = some q ∧ p.level = .mark ∧
    tolMatch exactWindows .mark 4600 p.dur = true ∧ q.level = .space ∧
    tolMatch exactWindows .space 2600 q.dur = true := ⟨⟨.mark, 4600⟩, ⟨.space, 2600⟩, by decide⟩
theorem witness_ExpectPairChecks_fail : ∃ p q, hdr[0]? = some p ∧ hdr[0 + 1]? = some q ∧
    (p.level = .space ∨ tolMatch exactWindows .mark 4600 p.dur = false ∨ q.level = .mark ∨
      tolMatch exactWindows .space 6700 q.dur = false) := ⟨⟨.mark, 4600⟩, ⟨.space, 2600⟩, by decide⟩
theorem witness_ExpectPairChecks_past : (on (xP hdr 1)).inp.ptIn.length ≤ (on (xP hdr 1)).inp.cur + 1 := by decide

theorem witness_DecodeBitReads_one :
    PairAt (tolMatch exactWindows) [⟨.mark, 340⟩, ⟨.space, 1000⟩] 0 340 1000 := by unfold PairAt; decide
theorem witness_DecodeBitReads_zero : ¬ PairAt (tolMatch exactWindows) [⟨.mark, 340⟩, ⟨.space, 400⟩] 0 340 1000 ∧
    PairAt (tolMatch exactWindows) [⟨.mark, 340⟩, ⟨.space, 400⟩] 0 340 400 := by unfold PairAt; decide
theorem witness_DecodeBitReads_none : NoBitAt (tolMatch exactWindows) [⟨.mark, 340⟩] 0 := by
  unfold NoBitAt PairAt; decide
theorem witness_DecodeBitReads_footer : ([⟨.mark, 340⟩, ⟨.space, 20600⟩] : List Pulse)[0]? = some ⟨.mark, 340⟩ ∧
    ([⟨.mark, 340⟩, ⟨.space, 20600⟩] : List Pulse)[0 + 1]? = some ⟨.space, 20600⟩ ∧
    tolMatch exactWindows .space 1000 20600 = false ∧ tolMatch exactWindows .space 400 20600 = false := by decide

/-- The checks of the grammar as evaluations. -/
def pairB (tol : Tol) (pt : List Pulse) (k m s : Nat) : Bool :=
  pulseMatches tol pt k .mark m && pulseMatches tol pt (k + 1) .space s

def bitB (tol : Tol) (pt : List Pulse) (k : Nat) (b : Bool) : Bool :=
  if b then pairB tol pt k 340 1000 else !pairB tol pt k 340 1000 && pairB tol pt k 340 400

def noBitB (tol : Tol) (pt : List Pulse) (k : Nat) : Bool := !pairB tol pt k 340 1000 && !pairB tol pt k 340 400

def matchB (tol : Tol) (pt : List Pulse) (d : Dpc) : Bool :=
  match d.e.val with
  | 0 => pairB tol pt 0 4600 2600
  | 1 => !noBitB tol pt (posCur d)
  | 2 => pairB tol pt 130 340 20600
  | 3 => pairB tol pt 132 4600 6700
  | 4 => pairB tol pt 134 9300 5000
  | 5 => !noBitB tol pt (posCur d)
  | 6 => pairB tol pt 264 340 20600
  | 7 => pulseMatches tol pt 266 .mark 4600
  | _ => true

theorem pairB_iff {tol : Tol} {pt : List Pulse} {k m s : Nat} : pairB tol pt k m s = true ↔ PairAt tol pt k m s := by
  simp [pairB, PairAt]

theorem bitB_iff {tol : Tol} {pt : List Pulse} {k : Nat} {b : Bool} : bitB tol pt k b = true ↔ BitAt tol pt k b := by
  cases b <;> simp [bitB, BitAt, ← pairB_iff]

theorem noBitB_iff {tol : Tol} {pt : List Pulse} {k : Nat} : noBitB tol pt k = true ↔ NoBitAt tol pt k := by
  simp [noBitB, NoBitAt, ← pairB_iff]

theorem some_bitB {tol : Tol} {pt : List Pulse} {k : Nat} : (!noBitB tol pt k) = true ↔ ∃ b, BitAt tol pt k b := by
  simp only [← bitB_iff, Bool.exists_bool, noBitB, bitB]
  cases pairB tol pt k 340 1000 <;> cases pairB tol pt k 340 400 <;> decide

theorem matchB_iff {tol : Tol} {pt : List Pulse} {d : Dpc} : matchB tol pt d = true ↔ MatchesAt tol pt d := by
  obtain ⟨⟨e, he⟩, i, j⟩ := d
  interval_cases e
  · exact pairB_iff
  · exact some_bitB
  · exact pairB_iff
  · exact pairB_iff
  · exact pairB_iff
  · exact some_bitB
  · exact pairB_iff
  · exact Iff.rfl
  · exact iff_of_true rfl trivial

theorem witness_ConsumeBitsReads_bytes (i j : Fin 8) :
    BitAt (tolMatch exactWindows) (emitBits #v[0x16, 0x22, 0, 0, 0, 0, 0x24, 0x10]) (0 + 2 * bitNo i j)
      ((#v[0x16, 0x22, 0, 0, 0, 0, 0x24, 0x10] : Section8)[i].getLsbD j) := by
  rw [← bitB_iff]
  revert i j
  decide +kernel
theorem witness_ConsumeBitsReads_first : NoBitAt (tolMatch exactWindows) [] (0 + 2 * bitNo 0 0) :=
  noBitB_iff.mp (by decide)
theorem witness_ConsumeBitsReads_later :
    (∀ i j : Fin 8, bitNo i j < bitNo 0 1 →
      ∃ b, BitAt (tolMatch exactWindows) [⟨.mark, 340⟩, ⟨.space, 400⟩] (0 + 2 * bitNo i j) b) ∧
    NoBitAt (tolMatch exactWindows) [⟨.mark, 340⟩, ⟨.space, 400⟩] (0 + 2 * bitNo 0 1) := by
  simp only [← some_bitB, ← noBitB_iff]
  decide

theorem witness_laws : TL1 (tolMatch exactWindows) ∧ TL2 (tolMatch exactWindows) ∧ TL3 (tolMatch exactWindows) := by
  refine ⟨fun l => ?_, by unfold TL2; decide, by unfold TL3; decide⟩
  cases l <;> decide

theorem witness_DecodeFollowsGrammar_carries : CarriesFrame (tolMatch exactWindows) (encodeTrain b1) b1 := by
  refine ⟨?_, ?_, ?_⟩
  · rintro ⟨e, i, j⟩ -
    rw [← matchB_iff]
    revert e i j
    decide +kernel
  · simp only [← bitB_iff]
    decide +kernel
  · simp only [← bitB_iff]
    decide +kernel
theorem witness_DecodeFollowsGrammar_first : FirstMismatch (tolMatch exactWindows) [] ⟨0, 0, 0⟩ := by
  refine ⟨by unfold IsCheck; decide, ?_, fun d _ h => absurd h (by simp [posCur])⟩
  rw [← matchB_iff]
  decide
theorem witness_DecodeFollowsGrammar_last :
    FirstMismatch (tolMatch exactWindows) ((encodeTrain b1).take 266) ⟨7, 0, 0⟩ := by
  refine ⟨by unfold IsCheck; decide, ?_, ?_⟩
  · rw [← matchB_iff]
    decide +kernel
  · rintro ⟨e, i, j⟩ -
    rw [← matchB_iff]
    revert e i j
    decide +kernel
theorem witness_DecodeFollowsGrammar_empty : (on (xP [] 0)).inp.ptIn = [] := rfl

theorem witness_PulseRoundTrip : TL1 (tolMatch (on (xF b1)).tol) ∧ TL2 (tolMatch (on (xF b1)).tol) ∧
    Completes .encode (on (xF b1)) (.train (encodeTrain b1) 38000) :=
  ⟨witness_laws.1, witness_laws.2.1, witness_encode _⟩
theorem witness_HeaderTwoRejected : TL1 (tolMatch (on (xF b1)).tol) ∧ TL3 (tolMatch (on (xF b1)).tol) ∧
    Completes .encode (on (xF b1)) (.train (encodeTrain b1) 38000) :=
  ⟨witness_laws.1, witness_laws.2.2, witness_encode _⟩
theorem witness_ShortCaptureRejected : (on (xP ((encodeTrain b1).take 266) 0)).inp.ptIn.length < 267 ∧
    (on (xP ((encodeTrain b1).take 131) 0)).inp.ptIn.length ≤ 131 ∧ (on (xP [] 0)).inp.ptIn.length ≤ 131 := by decide +kernel
theorem witness_TransmitThenReceive : TL1 (tolMatch State.reset.tol) ∧ TL2 (tolMatch State.reset.tol) ∧
    thermoOf { State.reset.inp with mode := 1, fan := 3, targetC := .pair ⟨24, 1⟩, preset := 0 } = some stB1 :=
  ⟨witness_laws.1, witness_laws.2.1, by decide⟩
theorem witness_ReceiveStopsAtReject : Rejects .decode (State.reset.withTrain []) (.pulse ⟨0, 0, 0⟩ 0) :=
  rejects_of_seen (x := { resetInputs with ptIn := [] }) (by decide)

/-- ParseCompletes has VALIDATE's conditions, one witness for each clause, and the frame of its example. -/
theorem witness_ParseCompletes_header : (on (xF (b1.set 0 0x17))).inp.frame[0] ≠ 0x16 := witness_ValidateTests_header
theorem witness_ParseCompletes_cksum1 : (on (xF (b1.set 7 0x00))).inp.frame[0] = 0x16 ∧
    hi4 (on (xF (b1.set 7 0x00))).inp.frame[7] ≠ cksum1 (on (xF (b1.set 7 0x00))).inp.frame :=
  witness_ValidateTests_cksum1
theorem witness_ParseCompletes_cksum2 : (on (xF (b1.set 15 0xF0))).inp.frame[0] = 0x16 ∧
    hi4 (on (xF (b1.set 15 0xF0))).inp.frame[7] = cksum1 (on (xF (b1.set 15 0xF0))).inp.frame ∧
    hi4 (on (xF (b1.set 15 0xF0))).inp.frame[15] ≠ cksum2 (on (xF (b1.set 15 0xF0))).inp.frame :=
  witness_ValidateTests_cksum2
theorem witness_ParseCompletes_ok : (on (xF b1)).inp.frame[0] = 0x16 ∧
    hi4 (on (xF b1)).inp.frame[7] = cksum1 (on (xF b1)).inp.frame ∧
    hi4 (on (xF b1)).inp.frame[15] = cksum2 (on (xF b1)).inp.frame ∧ (on (xF b1)).inp.frame = b1 := by decide

end Sys2Proof.Tests
end

section
/-!
PROOFS. How an operation can end, said once for all of them: the state after a step is `Ending.after e` of the state
before it, for an ending `e` that the operation and the caller's inputs alone determine. The statements about PUBLISH
(10_state.md R42), FAULTED (R43) and what survives an operation (R45) are read off from that.
-/

namespace Sys2Proof.Machine

/-! ## The endings -/

/-- An ending of an operation (60_exceptions.md R240): what it writes, and nothing of the state it started from. -/
inductive Ending where
  /-- Outcome OK of any operation but PARSE: the buffer, the pulses, the position and the result. -/
  | completed (fb : Memory) (ptOut : List Pulse) (cur : Nat) (dpc : Dpc) (r : Result)
  /-- Outcome OK of PARSE: the frame operand's buffer and the result. -/
  | published (fb : Memory) (r : Result)
  /-- A REJECT, and the position it was raised at. -/
  | rejected (cur : Nat) (dpc : Dpc) (e : Reject)
  /-- A FAULT. -/
  | faulted (r : FaultReason)

/-- OK with the buffer and a result written, and nothing else. -/
abbrev Ending.buffered (fb : Memory) (r : Result) : Ending := .completed fb [] 0 ⟨0, 0, 0⟩ r

/-- OK with a result written, and nothing else. -/
abbrev Ending.plain (r : Result) : Ending := .buffered [] r

/-- The end of an expect check: its cursor in CUR, its flag and cursor as the result. -/
abbrev Ending.checked (r : Bool × Nat) : Ending := .completed [] [] r.2 ⟨0, 0, 0⟩ (.matched r.1 r.2)

/-- The state that an operation begun in `s` ends in. -/
def Ending.after (e : Ending) (s : State) : State :=
  match e with
  | .completed fb ptOut cur dpc r => (((s.start.putFb fb).appendOut ptOut).putPos cur dpc).finish r
  | .published fb r => (s.start.putFb fb).raisePublish.finish r
  | .rejected cur dpc e => (s.start.putPos cur dpc).raiseReject e
  | .faulted r => s.start.raiseFault r

/-- The state after a buffered ending, for a buffer as a variable: with BUILD's buffer in its place, unification would
reduce the buffer's nested writes. -/
theorem Ending.after_buffered (fb : Memory) (r : Result) (s : State) :
    (Ending.buffered fb r).after s = (s.start.putFb fb).finish r := rfl

/-- Which endings with outcome OK the decoded word admits: PARSE publishes, no other operation does, and each has a
result. -/
def Ending.Fits (d : Except DecodeError Instr) : Ending → Prop
  | .completed _ _ _ _ r => d ≠ .ok .parse ∧ r ≠ .absent
  | .published _ r => d = .ok .parse ∧ r ≠ .absent
  | .rejected _ _ _ => True
  | .faulted _ => True

/-- FAULTED after an ending: as before it, or 1 if it is a FAULT. -/
theorem Ending.after_faulted (e : Ending) (s : State) :
    (e.after s).faulted = (s.faulted || (e.after s).status.isFault) := by
  cases e <;> simp [Ending.after, Status.isFault]

/-- PUBLISH after an ending that fits the word. -/
theorem Ending.after_publish_iff {e : Ending} {d : Except DecodeError Instr} (h : e.Fits d) (s : State) :
    (e.after s).publish = true ↔ d = .ok .parse ∧ (e.after s).status = .ok := by
  cases e with
  | completed fb ptOut cur dpc r => simp [Ending.after, h.1]
  | published fb r => simp [Ending.after, h.1]
  | rejected cur dpc e => simp [Ending.after]
  | faulted r => simp [Ending.after]

/-- One ending leaves equal states but for FAULTED, from any two states with the same inputs. -/
theorem Ending.after_eq_but_faulted (e : Ending) {s t : State} (h : SameInputs s t) :
    e.after t = { e.after s with faulted := (e.after t).faulted } := by
  obtain ⟨hop, hinp, htol⟩ := h
  have hstart : t.start = { s.start with faulted := t.faulted } :=
    State.start_congr (t := { s with faulted := t.faulted }) hop hinp htol rfl
  cases e <;> simp only [Ending.after, hstart] <;> rfl

/-! ## Every operation has an ending -/

/-- Operation `i` on the ports `x` and the tolerance `w` ends as `e`, whatever else the state holds. -/
def EndsAs (i : Instr) (x : Inputs) (w : List Window) (e : Ending) : Prop :=
  ∀ s : State, s.inp = x → s.tol = w → exec i s = .next (e.after s)

/-- Each operation ends in one of the endings that fit it, by its equations in Laws/Exec.lean. -/
theorem exec_ends (i : Instr) (x : Inputs) (w : List Window) : ∃ e : Ending, e.Fits (.ok i) ∧ EndsAs i x w e := by
  cases i with
  | build =>
    cases h : thermoOf x with
    | none => exact ⟨.faulted .badOperand, trivial, by rintro s rfl rfl; exact exec_build_none h⟩
    | some st =>
      exact ⟨.buffered (buildBuffer st (timeOf x.time)) (.frame (buildBuffer st (timeOf x.time)).toFrame), ⟨nofun, nofun⟩,
        by rintro s rfl rfl; rw [Ending.after_buffered]; exact exec_build_some h⟩
  | parse =>
    cases h : validateFrame x.frame with
    | error e => exact ⟨.rejected 0 ⟨0, 0, 0⟩ e, trivial, by rintro s rfl rfl; exact exec_parse_error h⟩
    | ok _ =>
      exact ⟨.published (Memory.ofFrame x.frame) (.decoded (decodeState x.frame)), ⟨rfl, nofun⟩,
        by rintro s rfl rfl; exact exec_parse_ok h⟩
  | validate =>
    cases h : validateFrame x.frame with
    | error e => exact ⟨.rejected 0 ⟨0, 0, 0⟩ e, trivial, by rintro s rfl rfl; exact exec_validate_error h⟩
    | ok _ =>
      exact ⟨.buffered (Memory.ofFrame x.frame) .valid, ⟨nofun, nofun⟩,
        by rintro s rfl rfl; exact exec_validate_ok h⟩
  | encode =>
    exact ⟨.completed (Memory.ofFrame x.frame) (encodeTrain x.frame) 0 ⟨0, 0, 0⟩ (.train (encodeTrain x.frame) 38000),
      ⟨nofun, nofun⟩, by rintro s rfl rfl; exact exec_encode s⟩
  | decode =>
    cases h : decodeTrain (tolMatch w) x.ptIn with
    | error e =>
      exact ⟨.rejected (e.curOr 0) (e.dpcOr ⟨0, 0, 0⟩) e, trivial, by rintro s rfl rfl; exact exec_decode_error h⟩
    | ok Fc =>
      exact ⟨.completed (Memory.ofFrame Fc.1) [] Fc.2 ⟨8, 0, 0⟩ (.frame Fc.1), ⟨nofun, nofun⟩,
        by rintro s rfl rfl; exact exec_decode_ok h⟩
  | bcdEnc =>
    cases h : bcdOperand x.value with
    | none => exact ⟨.faulted .badOperand, trivial, by rintro s rfl rfl; exact exec_bcdEnc_none h⟩
    | some v => exact ⟨.plain (.byte (bcdEnc v)), ⟨nofun, nofun⟩, by rintro s rfl rfl; exact exec_bcdEnc_some h⟩
  | bcdDec => exact ⟨.plain (.nat (bcdDec x.byte)), ⟨nofun, nofun⟩, by rintro s rfl rfl; exact exec_bcdDec s⟩
  | fanEnc => exact ⟨.plain (.nibble (fanEnc (fanOf x.fan))), ⟨nofun, nofun⟩, by rintro s rfl rfl; exact exec_fanEnc s⟩
  | fanDec => exact ⟨.plain (.fan (fanDec x.nibble)), ⟨nofun, nofun⟩, by rintro s rfl rfl; exact exec_fanDec s⟩
  | modeEnc =>
    cases h : modeOf x.mode with
    | none => exact ⟨.faulted .badOperand, trivial, by rintro s rfl rfl; exact exec_modeEnc_none h⟩
    | some m => exact ⟨.plain (.nibble (modeEnc m)), ⟨nofun, nofun⟩, by rintro s rfl rfl; exact exec_modeEnc_some h⟩
  | modeDec => exact ⟨.plain (.mode (modeDec x.nibble)), ⟨nofun, nofun⟩, by rintro s rfl rfl; exact exec_modeDec s⟩
  | powerEnc =>
    exact ⟨.plain (.byte (powerEnc (powerOf x.power))), ⟨nofun, nofun⟩, by rintro s rfl rfl; exact exec_powerEnc s⟩
  | powerDec => exact ⟨.plain (.power (powerDec x.byte)), ⟨nofun, nofun⟩, by rintro s rfl rfl; exact exec_powerDec s⟩
  | tempcEnc =>
    cases h : tempOf x.targetC with
    | none => exact ⟨.faulted .badOperand, trivial, by rintro s rfl rfl; exact exec_tempcEnc_none h⟩
    | some q => exact ⟨.plain (.byte (tempcEnc q)), ⟨nofun, nofun⟩, by rintro s rfl rfl; exact exec_tempcEnc_some h⟩
  | tempfEnc =>
    cases h : tempOf x.targetC with
    | none => exact ⟨.faulted .badOperand, trivial, by rintro s rfl rfl; exact exec_tempfEnc_none h⟩
    | some q => exact ⟨.plain (.byte (tempfEnc q)), ⟨nofun, nofun⟩, by rintro s rfl rfl; exact exec_tempfEnc_some h⟩
  | clockEnc =>
    exact ⟨.plain (.clock (clockEnc (timeOf x.time)).1 (clockEnc (timeOf x.time)).2.1 (clockEnc (timeOf x.time)).2.2),
      ⟨nofun, nofun⟩, by rintro s rfl rfl; exact exec_clockEnc s⟩
  | presetEnc =>
    cases h : presetOf x.preset with
    | none => exact ⟨.faulted .badOperand, trivial, by rintro s rfl rfl; exact exec_presetEnc_none h⟩
    | some p =>
      exact ⟨.plain (.presetBits (presetEnc p).1 (presetEnc p).2), ⟨nofun, nofun⟩,
        by rintro s rfl rfl; exact exec_presetEnc_some h⟩
  | presetDec =>
    exact ⟨.plain (.preset (presetDec x.byte7 x.byte12)), ⟨nofun, nofun⟩, by rintro s rfl rfl; exact exec_presetDec s⟩
  | cksum1 =>
    exact ⟨.buffered (Memory.ofFrame x.frame) (.nibble (cksum1 x.frame)), ⟨nofun, nofun⟩,
      by rintro s rfl rfl; exact exec_cksum1 s⟩
  | cksum2 =>
    exact ⟨.buffered (Memory.ofFrame x.frame) (.nibble (cksum2 x.frame)), ⟨nofun, nofun⟩,
      by rintro s rfl rfl; exact exec_cksum2 s⟩
  | emitBits =>
    exact ⟨.completed [] (emitBits x.bytes) 0 ⟨0, 0, 0⟩ (.pulses (emitBits x.bytes)), ⟨nofun, nofun⟩,
      by rintro s rfl rfl; exact exec_emitBits s⟩
  | expectMark =>
    exact ⟨.checked (checkMark (tolMatch w) x.ptIn x.cur x.markDur), ⟨nofun, nofun⟩,
      by rintro s rfl rfl; exact exec_expectMark s⟩
  | expectSpace =>
    exact ⟨.checked (checkSpace (tolMatch w) x.ptIn x.cur x.spaceDur), ⟨nofun, nofun⟩,
      by rintro s rfl rfl; exact exec_expectSpace s⟩
  | expectPair =>
    exact ⟨.checked (checkPair (tolMatch w) x.ptIn x.cur x.markDur x.spaceDur), ⟨nofun, nofun⟩,
      by rintro s rfl rfl; exact exec_expectPair s⟩
  | decodeBit =>
    cases h : readBit (tolMatch w) x.ptIn ⟨0, 0, 0⟩ x.cur with
    | error e =>
      exact ⟨.rejected (e.curOr x.cur) (e.dpcOr ⟨0, 0, 0⟩) e, trivial,
        by rintro s rfl rfl; exact exec_decodeBit_error h⟩
    | ok bc =>
      exact ⟨.completed [] [] bc.2 ⟨0, 0, 0⟩ (.bit bc.1 bc.2), ⟨nofun, nofun⟩,
        by rintro s rfl rfl; exact exec_decodeBit_ok h⟩
  | consumeBits =>
    cases h : consumeBits (tolMatch w) x.ptIn 0 x.cur with
    | error e =>
      exact ⟨.rejected (e.curOr x.cur) (e.dpcOr ⟨0, 0, 0⟩) e, trivial,
        by rintro s rfl rfl; exact exec_consumeBits_error h⟩
    | ok Bc =>
      exact ⟨.completed [] [] Bc.2 ⟨0, 7, 7⟩ (.bytes Bc.1 Bc.2), ⟨nofun, nofun⟩,
        by rintro s rfl rfl; exact exec_consumeBits_ok h⟩

/-- Every step ends in an ending that fits its word, and so does a step from any state with the same inputs, in the
same one. -/
theorem step_ends (s : State) :
    ∃ e : Ending, e.Fits (decode s.op) ∧ ∀ t, SameInputs s t → step t = .next (e.after t) := by
  cases hd : decode s.op with
  | ok i =>
    obtain ⟨e, hfit, hends⟩ := exec_ends i s.inp s.tol
    refine ⟨e, hfit, fun t ⟨hop, hinp, htol⟩ => ?_⟩
    rw [step_of_decode (hop ▸ hd), hends t hinp htol]
  | error _ => exact ⟨.faulted .illegalOp, trivial, fun t ⟨hop, _, _⟩ => step_of_illegal (hop ▸ hd)⟩

/-- The state after a step is that of an ending that fits its word. -/
theorem exists_ending_of_step {s t : State} (h : step s = .next t) :
    ∃ e : Ending, e.Fits (decode s.op) ∧ t = e.after s := by
  obtain ⟨e, hfit, hends⟩ := step_ends s
  rw [hends s ⟨rfl, rfl, rfl⟩] at h
  cases h
  exact ⟨e, hfit, rfl⟩

/-! ## The obligations -/

/-- Settles O8: equal inputs give one ending, which leaves states equal but for FAULTED (R45). -/
theorem nothingSurvivesButFaulted : Obligations.NothingSurvivesButFaulted := by
  intro s t hop hinp htol
  have same : SameInputs s t := ⟨hop.symm, hinp.symm, htol.symm⟩
  obtain ⟨e, -, hends⟩ := step_ends s
  exact ⟨e.after s, e.after t, hends s ⟨rfl, rfl, rfl⟩, hends t same, e.after_eq_but_faulted same⟩

/-- Settles O11: the endings that publish are PARSE's with outcome OK (R42). -/
theorem publishExactlyOnParse : Obligations.PublishExactlyOnParse := by
  intro s t h
  obtain ⟨e, hfit, rfl⟩ := exists_ending_of_step h
  exact Ending.after_publish_iff hfit s

/-- Settles O12: an ending changes FAULTED only by a FAULT, and then sets it (R43). -/
theorem faultedIsSticky : Obligations.FaultedIsSticky := by
  refine ⟨rfl, fun s t h => ?_⟩
  obtain ⟨e, -, rfl⟩ := exists_ending_of_step h
  exact e.after_faulted s

end Sys2Proof.Machine
end

section
/-!
PROOFS. Which pulse of an emitted section and of ENCODE's train carries which bit (30_encoding.md R104,
42_pulse_codec.md R190, R191): a section is equal blocks of sixteen pulses per byte and two per bit, and a train holds
its two sections from pulse 2 and from pulse 136. The statement about the bit order (R62) is read off from that.
-/

namespace Sys2Proof.Machine

/-! ## The pulses of a section -/

/-- Element `k` of block `i` of a list put together from blocks of equal length `c`. -/
theorem getElem?_flatMap_of_length {α β : Type} {f : α → List β} {c k : Nat} (hf : ∀ a, (f a).length = c)
    (hk : k < c) (l : List α) (i : Nat) : (l.flatMap f)[c * i + k]? = l[i]?.bind fun a => (f a)[k]? := by
  induction l generalizing i with
  | nil => simp
  | cons a l ih =>
    cases i with
    | zero => simp [List.getElem?_append_left, hf, hk]
    | succ i =>
      rw [List.flatMap_cons, List.getElem?_append_right (by rw [hf, Nat.mul_succ]; omega), hf,
        show c * (i + 1) + k - c = c * i + k by rw [Nat.mul_succ]; omega, ih, List.getElem?_cons_succ]

@[simp] theorem idx8_getElem? (i : Fin 8) : idx8[i.val]? = some i := by
  revert i; decide

@[simp] theorem emitBit_length (b : Bool) : (emitBit b).length = 2 := rfl

theorem emitBit_mark (b : Bool) : (emitBit b)[0]? = some ⟨.mark, 340⟩ := rfl

theorem emitBit_space (b : Bool) : (emitBit b)[1]? = some ⟨.space, if b = true then 1000 else 400⟩ := by
  cases b <;> rfl

/-- Bit `j` of a byte is its pulses `2 j` and `2 j + 1` (R190). -/
theorem emitByte_getElem? (b : Byte) (j : Fin 8) {k : Nat} (hk : k < 2) :
    (emitByte b)[2 * j.val + k]? = (emitBit (b.getLsbD j))[k]? := by
  rw [emitByte, getElem?_flatMap_of_length (fun _ => emitBit_length _) hk, idx8_getElem?, Option.bind_some]

/-- Bit `j` of byte `i` of a section is its pulses `2 (8 i + j)` and the one after (R190). -/
theorem emitBits_getElem? (B : Section8) (i j : Fin 8) {k : Nat} (hk : k < 2) :
    (emitBits B)[2 * bitNo i j + k]? = (emitBit (B[i].getLsbD j))[k]? := by
  have place : 2 * bitNo i j + k = 16 * i.val + (2 * j.val + k) := by unfold bitNo; omega
  rw [place, emitBits, getElem?_flatMap_of_length (fun _ => emitByte_length _) (by omega), idx8_getElem?,
    Option.bind_some, emitByte_getElem? _ _ hk]

/-! ## The two sections in a train -/

/-- Element `k` of the middle part of a list, where the part before it has length `n`. -/
theorem getElem?_append_middle {α : Type} {l m : List α} {n k : Nat} (hl : l.length = n) (hk : k < m.length)
    (r : List α) : (l ++ (m ++ r))[n + k]? = m[k]? := by
  rw [List.getElem?_append_right (by omega), List.getElem?_append_left (by omega), hl, Nat.add_sub_cancel_left]

/-- Section 1 is the train's pulses 2 to 129 (R104). -/
theorem encodeTrain_getElem?_section1 (F : Frame) {k : Nat} (hk : k < 128) :
    (encodeTrain F)[2 + k]? = (emitBits (section1 F))[k]? := by
  simp only [encodeTrain, List.append_assoc]
  exact getElem?_append_middle rfl (by simpa using hk) _

/-- Section 2 is the train's pulses 136 to 263 (R104). -/
theorem encodeTrain_getElem?_section2 (F : Frame) {k : Nat} (hk : k < 128) :
    (encodeTrain F)[136 + k]? = (emitBits (section2 F))[k]? := by
  rw [encodeTrain, List.append_assoc _ (markSpace _ _) _, List.append_assoc _ (emitBits (section2 F)) _]
  exact getElem?_append_middle (by simp [markSpace]) (by simpa using hk) _

theorem section1_getElem (F : Frame) (i : Fin 8) : (section1 F)[i] = F[i.val] := by
  fin_cases i <;> rfl

theorem section2_getElem (F : Frame) (i : Fin 8) : (section2 F)[i] = F[8 + i.val] := by
  fin_cases i <;> rfl

/-- The pulse of a train at which bit `j` of byte `a` of the frame begins: the data of sections 1 and 2 begin at
pulses 2 and 136 (R104). -/
def bitPulse (a : Fin 16) (j : Fin 8) : Nat :=
  if a.val < 8 then 2 + 2 * (8 * a.val + j.val) else 136 + 2 * (8 * a.val + j.val - 64)

/-- Bit `j` of byte `a` of the frame is the two pulses of the train at `bitPulse a j` (R62, R104). -/
theorem encodeTrain_getElem?_bitPulse (F : Frame) (a : Fin 16) (j : Fin 8) {k : Nat} (hk : k < 2) :
    (encodeTrain F)[bitPulse a j + k]? = (emitBit (F[a].getLsbD j))[k]? := by
  unfold bitPulse
  split
  next h =>
    obtain ⟨i, ha⟩ : ∃ i : Fin 8, a.val = i.val := ⟨⟨a.val, h⟩, rfl⟩
    have frameByte : F[a] = F[i.val] := by simp only [Fin.getElem_fin, ha]
    have place : 2 + 2 * (8 * a.val + j.val) + k = 2 + (2 * bitNo i j + k) := by unfold bitNo; omega
    rw [place, encodeTrain_getElem?_section1 F (by unfold bitNo; omega), emitBits_getElem? _ _ _ hk, section1_getElem,
      frameByte]
  next h =>
    obtain ⟨i, ha⟩ : ∃ i : Fin 8, a.val = 8 + i.val := ⟨⟨a.val - 8, by omega⟩, by simp only; omega⟩
    have frameByte : F[a] = F[8 + i.val] := by simp only [Fin.getElem_fin, ha]
    have place : 136 + 2 * (8 * a.val + j.val - 64) + k = 136 + (2 * bitNo i j + k) := by unfold bitNo; omega
    rw [place, encodeTrain_getElem?_section2 F (by unfold bitNo; omega), emitBits_getElem? _ _ _ hk, section2_getElem,
      frameByte]

/-! ## The obligation -/

/-- Settles O40: the train in PT_OUT carries each bit of the frame at `bitPulse`, as a mark and a space (R62). -/
theorem dataBitOrder : Obligations.DataBitOrder := by
  intro s
  refine ⟨_, exec_encode s, fun a j => ?_⟩
  rw [State.finish_ptOut, State.appendOut_ptOut, State.startFrame_ptOut, List.nil_append]
  have spaceIndex : (if a.val < 8 then 3 + 2 * (8 * a.val + j.val) else 137 + 2 * (8 * a.val + j.val - 64)) =
      bitPulse a j + 1 := by unfold bitPulse; split <;> omega
  constructor
  · exact (encodeTrain_getElem?_bitPulse _ a j (by decide)).trans (emitBit_mark _)
  · rw [spaceIndex, encodeTrain_getElem?_bitPulse _ a j (by decide), emitBit_space]

end Sys2Proof.Machine
end

section
/-!
PROOFS. Which words are no operation (30_encoding.md R90-R92): the words the encoder gives are exactly those outside
R92's ranges, and on every other word the decoder answers with an error, which a step turns into FAULT(ILLEGAL_OP).
-/

namespace Sys2Proof.Machine

/-! ## The illegal words -/

/-- The ranges of R92, read off the test of well-formedness. -/
theorem legalOp_eq_false_iff (w : Byte) : legalOp w = false ↔
    w = 0x00 ∨ (0x06 ≤ w.toNat ∧ w.toNat ≤ 0x0F) ∨ w = 0x1F ∨ 0x26 ≤ w.toNat := by
  simp only [legalOp, ← BitVec.toNat_inj, Bool.not_eq_false', Bool.or_eq_true, Bool.and_eq_true, decide_eq_true_eq,
    beq_iff_eq, or_assoc]
  rfl

/-- The laws of the encoding, put together for every operation. -/
theorem encodingStatement (i : Instr) : Laws.Encoding.Statement i :=
  match i with
  | .build => Laws.Encoding.build
  | .parse => Laws.Encoding.parse
  | .validate => Laws.Encoding.validate
  | .encode => Laws.Encoding.encode
  | .decode => Laws.Encoding.decode
  | .bcdEnc => Laws.Encoding.bcdEnc
  | .bcdDec => Laws.Encoding.bcdDec
  | .fanEnc => Laws.Encoding.fanEnc
  | .fanDec => Laws.Encoding.fanDec
  | .modeEnc => Laws.Encoding.modeEnc
  | .modeDec => Laws.Encoding.modeDec
  | .powerEnc => Laws.Encoding.powerEnc
  | .powerDec => Laws.Encoding.powerDec
  | .tempcEnc => Laws.Encoding.tempcEnc
  | .tempfEnc => Laws.Encoding.tempfEnc
  | .clockEnc => Laws.Encoding.clockEnc
  | .presetEnc => Laws.Encoding.presetEnc
  | .presetDec => Laws.Encoding.presetDec
  | .cksum1 => Laws.Encoding.cksum1
  | .cksum2 => Laws.Encoding.cksum2
  | .emitBits => Laws.Encoding.emitBits
  | .expectMark => Laws.Encoding.expectMark
  | .expectSpace => Laws.Encoding.expectSpace
  | .expectPair => Laws.Encoding.expectPair
  | .decodeBit => Laws.Encoding.decodeBit
  | .consumeBits => Laws.Encoding.consumeBits

@[simp] theorem legalOp_encode (i : Instr) : legalOp (encode i) = true := (encodingStatement i).1

/-- R91's table has no gap outside R92's ranges: a legal word has an operation, of which it is the word. -/
theorem decodeGroup_of_legalOp : ∀ w : Byte, legalOp w = true → ∃ i ∈ decodeGroup w, encode i = w := by decide

/-- R91's table has no row inside R92's ranges. -/
theorem decodeGroup_of_not_legalOp : ∀ w : Byte, legalOp w = false → decodeGroup w = none := by decide

/-- The words of no operation are the illegal ones (R91, R92). -/
theorem forall_encode_ne_iff (w : Byte) : (∀ i, encode i ≠ w) ↔ legalOp w = false := by
  constructor
  · intro none
    by_contra legal
    obtain ⟨i, -, hi⟩ := decodeGroup_of_legalOp w (Bool.eq_true_of_not_eq_false legal)
    exact none i hi
  · rintro illegal i rfl
    exact absurd (legalOp_encode i) (by simp [illegal])

/-- The decoder refuses an illegal word by name (R92). -/
theorem decode_of_not_legalOp {w : Byte} (h : legalOp w = false) : decode w = .error (.illegalOp w) := by
  simp [Sys2Proof.decode, decodeGroup_of_not_legalOp w h]

/-- A step with an illegal `OP` faults, whatever the rest of the state is (R92). -/
theorem step_of_not_legalOp {s : State} (h : legalOp s.op = false) : step s = .next s.illegalOp :=
  step_of_illegal (decode_of_not_legalOp h)

/-! ## The obligation -/

/-- Settles O3: the words outside the table are R92's ranges, and a step with one of them is `State.illegalOp`, which
reads no port. -/
theorem illegalOpFaults : Obligations.IllegalOpFaults := by
  refine ⟨fun w => (forall_encode_ne_iff w).trans (legalOp_eq_false_iff w), fun s none => ?_⟩
  have illegal : legalOp s.op = false := (forall_encode_ne_iff s.op).1 none
  exact ⟨s.illegalOp, step_of_not_legalOp illegal, rfl, rfl, rfl, fun x =>
    ⟨State.illegalOp { s with inp := x }, step_of_not_legalOp illegal, rfl, rfl, rfl⟩⟩

end Sys2Proof.Machine
end

section
/-!
PROOFS. The field codecs of group 0x1 (41_frame_builder_parser.md R130-R137, R143-R145): BCD, the fan, mode and power
codes, the clock and the preset flags. Each operation's statement is its equation in Laws/Exec.lean, the lemma that
says what it leaves, and one lemma that reads its computation off the port's bits.
-/

namespace Sys2Proof.Machine

/-! ## From an operation's equation to its ending -/

/-- An operation that only puts a result on the ports completes and writes nothing else (R46). -/
theorem completesPlain_of_exec {i : Instr} {s : State} {r : Result} (h : exec i s = .next (s.start.finish r)) :
    CompletesPlain i s r :=
  ⟨_, h, rfl, rfl, rfl, rfl, Memory.read_nil, rfl⟩

theorem faults_of_exec {i : Instr} {s : State} {r : FaultReason} (h : exec i s = .next (s.start.raiseFault r)) :
    Faults i s r :=
  ⟨_, h, rfl, rfl, rfl, rfl⟩

/-! ## Nibbles as numbers (R10) -/

theorem toNat_hi4 (b : Byte) : (hi4 b).toNat = b.toNat / 16 := by revert b; decide

theorem toNat_lo4 (b : Byte) : (lo4 b).toNat = b.toNat % 16 := by revert b; decide

theorem toNat_join4 (m n : Nibble) : (join4 m n).toNat = 16 * m.toNat + n.toNat := by revert m n; decide

/-! ## BCD (R130, R131) -/

theorem bcdOperand_of_le {v : Nat} (h : v ≤ 99) : bcdOperand v = some v := if_pos h

theorem bcdOperand_of_lt {v : Nat} (h : 99 < v) : bcdOperand v = none := if_neg h.not_ge

/-- The two digits side by side are `16 * tens + units` (R98). -/
theorem bcdEnc_eq_packed {v : Nat} (h : v ≤ 99) : bcdEnc v = packed v := by
  have tens : v / 10 ≤ 9 := Nat.div_le_div_right h
  apply BitVec.eq_of_toNat_eq
  simp only [bcdEnc, packed, toNat_join4, BitVec.toNat_ofNat]
  omega

theorem toNat_hi4_packed {v : Nat} (h : v ≤ 99) : (hi4 (packed v)).toNat = v / 10 := by
  rw [← bcdEnc_eq_packed h, bcdEnc, hi4_join4, BitVec.toNat_ofNat]
  omega

theorem toNat_lo4_packed {v : Nat} (h : v ≤ 99) : (lo4 (packed v)).toNat = v % 10 := by
  rw [← bcdEnc_eq_packed h, bcdEnc, lo4_join4, BitVec.toNat_ofNat]
  omega

theorem bcdDec_eq (b : Byte) : bcdDec b = 10 * (b.toNat / 16) + b.toNat % 16 := by
  rw [bcdDec, toNat_hi4, toNat_lo4]

/-- Settles O19: BCD_DEC is arithmetic on the two nibbles, whatever digits they are. -/
theorem bcdDecReads : Obligations.BcdDecReads := by
  refine ⟨rfl, fun s => ?_, fun b => ?_, by decide, by decide, by decide, by decide, fun v => bcdDec_bcdEnc⟩
  · rw [← bcdDec_eq]
    exact completesPlain_of_exec (exec_bcdDec s)
  · rw [bcdDec_eq]
    omega

/-! ## The fan code (R132, R133) -/

theorem fanEnc_fanOf (c : BitVec 2) :
    fanEnc (fanOf c) = if c = 0 then 0x1 else if c = 1 then 0x8 else if c = 2 then 0x4 else 0x2 := by
  revert c; decide

theorem fanDec_eq (n : Nibble) :
    fanDec n = if n = 0x8 then .low else if n = 0x4 then .medium else if n = 0x2 then .high else .auto := by
  revert n; decide

/-- Settles O20: the codes port by port, and the encoder has the decoder as its left inverse. -/
theorem fanCodes : Obligations.FanCodes := by
  refine ⟨rfl, rfl, fun s => ?_, fun s => ?_, Function.LeftInverse.injective fanDec_fanEnc, fanDec_fanEnc, rfl, rfl, rfl,
    rfl⟩
  · rw [← fanEnc_fanOf]
    exact completesPlain_of_exec (exec_fanEnc s)
  · rw [← fanDec_eq]
    exact completesPlain_of_exec (exec_fanDec s)

/-! ## The mode code (R134, R135) -/

theorem exists_modeOf {c : BitVec 3} (h : c.toNat < 6) : ∃ m, modeOf c = some m := by
  rw [← Option.isSome_iff_exists]
  revert c; decide

theorem modeOf_eq_none {c : BitVec 3} (h : 6 ≤ c.toNat) : modeOf c = none := by
  revert c; decide

/-- The mode nibble of a port code: cool's for the codes of OFF and COOL. -/
theorem modeEnc_of_modeOf : ∀ c : BitVec 3, ∀ m ∈ modeOf c, modeEnc m =
    if c = 2 then 0x8 else if c = 3 then 0x1 else if c = 4 then 0x4 else if c = 5 then 0x2 ||| 0x8 else 0x2 := by
  decide

theorem modeDec_eq (n : Nibble) :
    modeDec n = if n = 0x8 then .heat else if n = 0x4 then .fanOnly else if n = 0x1 then .dry
      else if n = 0xA then .heatCool else .cool := by
  revert n; decide

theorem modeDec_ne_off (n : Nibble) : modeDec n ≠ .off := by revert n; decide

theorem modeDec_modeEnc {m : Mode} (h : m ≠ .off) : modeDec (modeEnc m) = m := by
  cases m with
  | off => contradiction
  | _ => rfl

/-- Settles O21: a mode code below 6 has a mode, whose nibble the port code gives; the others have none. -/
theorem modeCodes : Obligations.ModeCodes := by
  refine ⟨rfl, rfl, fun s h => ?_, fun s h => faults_of_exec (exec_modeEnc_none (modeOf_eq_none h)), fun s => ?_,
    modeDec_ne_off, fun m => modeDec_modeEnc, rfl, rfl, rfl, rfl, rfl⟩
  · obtain ⟨m, hm⟩ := exists_modeOf h
    rw [← modeEnc_of_modeOf _ m hm]
    exact completesPlain_of_exec (exec_modeEnc_some hm)
  · rw [← modeDec_eq]
    exact completesPlain_of_exec (exec_modeDec s)

/-! ## The power byte (R136, R137) -/

theorem powerEnc_powerOf (c : BitVec 1) : powerEnc (powerOf c) = if c = 1 then 0x08 else 0x0C := by
  revert c; decide

theorem powerDec_eq (b : Byte) : powerDec b = if b.toNat % 16 = 12 then .off else .on := by
  simp only [powerDec, ← toNat_lo4, ← BitVec.toNat_inj]
  rfl

theorem hi4_powerEnc (p : Power) : hi4 (powerEnc p) = 0x0 := hi4_join4 _ _

/-- Settles O22: the power byte of either code, and the low nibble alone read back. -/
theorem powerCodes : Obligations.PowerCodes := by
  refine ⟨rfl, rfl, fun s => ?_, fun s => ?_, hi4_powerEnc, rfl, rfl, rfl, rfl, rfl⟩
  · rw [← powerEnc_powerOf]
    exact completesPlain_of_exec (exec_powerEnc s)
  · rw [← powerDec_eq]
    exact completesPlain_of_exec (exec_powerDec s)

/-! ## The clock (R143) -/

theorem timeOf_of_valid {t : TimePort} (h : t.valid = true) : timeOf t = some ⟨t.h.toNat, t.m.toNat, t.s.toNat⟩ :=
  if_pos h

theorem timeOf_of_not_valid {t : TimePort} (h : ¬ t.valid = true) : timeOf t = none := if_neg h

/-- A time in range is packed, each number below 99; any other gives zeros. -/
theorem clockEnc_some (c : Clock) : clockEnc (some c) =
    if c.h ≤ 23 ∧ c.m ≤ 59 ∧ c.s ≤ 59 then (packed c.m, packed c.h, packed c.s) else (0x00, 0x00, 0x00) := by
  by_cases inRange : c.h ≤ 23 ∧ c.m ≤ 59 ∧ c.s ≤ 59
  · obtain ⟨hh, hm, hs⟩ := inRange
    rw [if_pos ⟨hh, hm, hs⟩, ← bcdEnc_eq_packed (by omega), ← bcdEnc_eq_packed (by omega),
      ← bcdEnc_eq_packed (by omega)]
    exact if_neg (by omega)
  · rw [if_neg inRange]
    exact if_pos (by omega)

/-- Settles O27: by the valid flag and the ranges of the three numbers. -/
theorem clockEncPacks : Obligations.ClockEncPacks := by
  refine ⟨rfl, fun s => ?_, rfl, rfl, rfl, rfl, fun h m => ?_, rfl⟩
  · apply completesPlain_of_exec
    rw [exec_clockEnc]
    by_cases valid : s.inp.time.valid = true
    · simp only [timeOf_of_valid valid, clockEnc_some, valid, true_and]
      split <;> rfl
    · rw [timeOf_of_not_valid valid, if_neg fun h => valid h.1]
      rfl
  · rw [clockEnc_some, if_neg (by simp)]

/-! ## The preset flags (R145) -/

/-- PRESET_DEC's two masks are one bit each. -/
theorem presetDec_eq (b7 b12 : Byte) : presetDec b7 b12 =
    if b12.getLsbD 2 = true then .eco else if b7.getLsbD 1 = true then .sleep else .none := by
  have eco : b12 &&& 0x04 ≠ 0 ↔ b12.getLsbD 2 = true := by revert b12; decide
  have sleep : b7 &&& 0x02 ≠ 0 ↔ b7.getLsbD 1 = true := by revert b7; decide
  simp only [presetDec, eco, sleep]

/-- Settles O29: the eco bit is asked first. -/
theorem presetDecPriority : Obligations.PresetDecPriority := by
  refine ⟨rfl, fun s => ?_, by decide, by decide, by decide⟩
  rw [← presetDec_eq]
  exact completesPlain_of_exec (exec_presetDec s)

end Sys2Proof.Machine
end

section
/-!
PROOFS. The temperature path (41_frame_builder_parser.md R138-R142): the integer arithmetic on numerator and denominator
is the exact arithmetic over the rationals (log entry 17), so TEMPC_ENC and TEMPF_ENC pack the rounded, clamped value.
-/

namespace Sys2Proof.Machine

/-! ## A pair and the rational it names -/

theorem ratOf_lt_intCast {q : Ratio} (hq : 0 < q.den) (n : Int) : ratOf q < n ↔ q.num < n * q.den := by
  rw [ratOf, div_lt_iff₀ (by exact_mod_cast hq)]
  exact_mod_cast Iff.rfl

theorem intCast_lt_ratOf {q : Ratio} (hq : 0 < q.den) (n : Int) : (n : ℚ) < ratOf q ↔ n * q.den < q.num := by
  rw [ratOf, lt_div_iff₀ (by exact_mod_cast hq)]
  exact_mod_cast Iff.rfl

/-- The clamp compares numerators over the common denominator (R139). -/
theorem ratOf_clampRatio {q : Ratio} (hq : 0 < q.den) {lo hi : Int} (h : lo ≤ hi) :
    ratOf (clampRatio q lo hi) = clampQ (ratOf q) lo hi := by
  have hQ : (lo : ℚ) ≤ hi := by exact_mod_cast h
  unfold clampRatio clampQ
  simp only [← ratOf_lt_intCast hq, ← intCast_lt_ratOf hq]
  split
  next low => rw [max_eq_left low.le, min_eq_right hQ]; simp [ratOf]
  next notLow =>
    rw [max_eq_right (not_lt.1 notLow)]
    split
    next high => rw [min_eq_left high.le]; simp [ratOf]
    next notHigh => rw [min_eq_right (not_lt.1 notHigh)]

theorem clampRatio_den_pos {q : Ratio} (hq : 0 < q.den) (lo hi : Int) : 0 < (clampRatio q lo hi).den := by
  unfold clampRatio
  split
  · exact Int.one_pos
  · split
    · exact Int.one_pos
    · exact hq

/-- The floor of `num / den + 1/2` as an integer division (R138). -/
theorem roundRatio_eq_roundQ {q : Ratio} (hq : 0 < q.den) : roundRatio q = roundQ (ratOf q) := by
  have hQ : (q.den : ℚ) ≠ 0 := by exact_mod_cast hq.ne'
  have sum : ratOf q + 1 / 2 = ((2 * q.num + q.den : Int) : ℚ) / (2 * q.den : Int) := by
    push_cast [ratOf]
    field_simp
  rw [roundQ, sum, Int.floor_div_cast_of_nonneg (by omega), Int.floor_intCast, roundRatio]

/-- The model's rounding of its clamp is the one over the rationals (R11, log entry 17). -/
theorem roundRatio_clampRatio {q : Ratio} (hq : 0 < q.den) {lo hi : Int} (h : lo ≤ hi) :
    roundRatio (clampRatio q lo hi) = roundQ (clampQ (ratOf q) lo hi) := by
  rw [roundRatio_eq_roundQ (clampRatio_den_pos hq lo hi), ratOf_clampRatio hq h]

theorem ratOf_fahrenheit {q : Ratio} (hq : 0 < q.den) : ratOf (fahrenheit q) = ratOf q * 9 / 5 + 32 := by
  have hQ : (q.den : ℚ) ≠ 0 := by exact_mod_cast hq.ne'
  simp only [ratOf, fahrenheit]
  push_cast
  field_simp
  ring

theorem fahrenheit_den_pos {q : Ratio} (hq : 0 < q.den) : 0 < (fahrenheit q).den := by
  simp only [fahrenheit]
  omega

/-! ## The range of a rounded, clamped value -/

/-- Rounding what lies between two integers stays between them. -/
theorem roundQ_clampQ_mem (x : ℚ) {lo hi : Int} (h : lo ≤ hi) :
    lo ≤ roundQ (clampQ x lo hi) ∧ roundQ (clampQ x lo hi) ≤ hi := by
  have hQ : (lo : ℚ) ≤ hi := by exact_mod_cast h
  have above : (lo : ℚ) ≤ clampQ x lo hi := le_min hQ (le_max_left _ _)
  have below : clampQ x lo hi ≤ hi := min_le_left _ _
  constructor
  · rw [roundQ, Int.le_floor]
    linarith
  · rw [roundQ, ← Int.lt_add_one_iff, Int.floor_lt]
    push_cast
    linarith

/-- The Celsius value that is packed is from 16 to 30 (R140). -/
theorem celsius_mem (x : ℚ) : 16 ≤ roundQ (clampQ x 16 30) ∧ roundQ (clampQ x 16 30) ≤ 30 := by
  exact_mod_cast roundQ_clampQ_mem x (lo := 16) (hi := 30) (by decide)

/-- The Fahrenheit value that is packed is from 60 to 86 (R141). -/
theorem fahrenheit_mem (x : ℚ) : 60 ≤ roundQ (clampQ x 60 86) ∧ roundQ (clampQ x 60 86) ≤ 86 := by
  exact_mod_cast roundQ_clampQ_mem x (lo := 60) (hi := 86) (by decide)

/-! ## The two encoders over the rationals -/

theorem roundRatio_celsius {q : Ratio} (hq : 0 < q.den) :
    roundRatio (clampRatio q 16 30) = roundQ (clampQ (ratOf q) 16 30) := by
  exact_mod_cast roundRatio_clampRatio hq (lo := 16) (hi := 30) (by decide)

theorem roundRatio_fahrenheit {q : Ratio} (hq : 0 < q.den) :
    roundRatio (clampRatio (fahrenheit q) 60 86) = roundQ (clampQ (ratOf q * 9 / 5 + 32) 60 86) := by
  rw [← ratOf_fahrenheit hq]
  exact_mod_cast roundRatio_clampRatio (fahrenheit_den_pos hq) (lo := 60) (hi := 86) (by decide)

theorem tempcEnc_eq_packed {q : Ratio} (hq : 0 < q.den) :
    tempcEnc q = packed (roundQ (clampQ (ratOf q) 16 30)).toNat := by
  have := celsius_mem (ratOf q)
  rw [tempcEnc, Config.tempCMin, Config.tempCMax, roundRatio_celsius hq, bcdEnc_eq_packed (by omega)]

theorem tempfEnc_eq_packed {q : Ratio} (hq : 0 < q.den) :
    tempfEnc q = packed (roundQ (clampQ (ratOf q * 9 / 5 + 32) 60 86)).toNat := by
  have := fahrenheit_mem (ratOf q * 9 / 5 + 32)
  rw [tempfEnc, Config.tempFMin, Config.tempFMax, roundRatio_fahrenheit hq, bcdEnc_eq_packed (by omega)]

theorem tempOf_pair {t : TempPort} {q : Ratio} (ht : t = .pair q) (hq : 0 < q.den) : tempOf t = some q := by
  subst ht
  exact if_pos hq

/-! ## The obligations -/

/-- Settles O23: the packed byte is that of the rational arithmetic, whose rounded value the clamp bounds. -/
theorem tempcEncRounds : Obligations.TempcEncRounds := by
  refine ⟨rfl, fun s q ht hq => ⟨?_, celsius_mem _⟩, rfl, rfl, rfl, rfl, rfl, rfl, rfl⟩
  rw [← tempcEnc_eq_packed hq]
  exact completesPlain_of_exec (exec_tempcEnc_some (tempOf_pair ht hq))

/-- Settles O24: as for TEMPC_ENC, from the temperature converted before it is clamped. -/
theorem tempfEncRounds : Obligations.TempfEncRounds := by
  refine ⟨rfl, fun s q ht hq => ⟨?_, fahrenheit_mem _⟩, rfl, rfl, rfl, rfl, rfl, rfl, rfl, rfl, rfl, rfl⟩
  rw [← tempfEnc_eq_packed hq]
  exact completesPlain_of_exec (exec_tempfEnc_some (tempOf_pair ht hq))

/-- Settles O18: BCD_ENC packs what is in its domain; the clamps and the clock's ranges keep the codec's callers in
it. -/
theorem bcdEncPacks : Obligations.BcdEncPacks := by
  refine ⟨rfl, fun s h => ?_, fun s h => faults_of_exec (exec_bcdEnc_none (bcdOperand_of_lt h)),
    fun v h => ⟨toNat_hi4_packed h, toNat_lo4_packed h, by omega⟩, fun q hq => ?_, fun c packs => ?_, rfl, rfl, rfl⟩
  · rw [← bcdEnc_eq_packed h]
    exact completesPlain_of_exec (exec_bcdEnc_some (bcdOperand_of_le h))
  · have celsius := celsius_mem (ratOf q)
    have fahrenheit := fahrenheit_mem (ratOf q * 9 / 5 + 32)
    rw [roundRatio_celsius hq, roundRatio_fahrenheit hq]
    omega
  · rw [clockEnc_some] at packs
    have inRange := (ite_ne_right_iff.1 packs).1
    omega

end Sys2Proof.Machine
end

section
/-!
PROOFS. The two nibble checksums and the three tests of a frame (41_frame_builder_parser.md R146-R148, R153, R154): a
checksum is a sum of fifteen nibbles, and VALIDATE and PARSE end as `validateFrame` answers on the frame operand.
-/

namespace Sys2Proof.Machine

/-! ## The checksums as sums of numbers -/

theorem nibblePair_eq_nibs (F : Frame) (i : Fin 16) : nibblePair F i = nibs F[i] := by
  rw [nibblePair, toNat_hi4, toNat_lo4, nibs]

/-- `nibsum` as a number: the nibbles of the range and the low nibble of the check byte, mod 16 (R146). -/
theorem toNat_nibsum (F : Frame) (is : List (Fin 16)) (c : Fin 16) :
    (nibsum F is c).toNat = ((is.map fun i => nibs F[i]).sum + F[c].toNat % 16) % 16 := by
  have pairs : is.map (nibblePair F) = is.map fun i => nibs F[i] :=
    List.map_congr_left fun i _ => nibblePair_eq_nibs F i
  rw [nibsum, pairs, toNat_lo4, BitVec.toNat_ofNat, Nat.mod_mod]

theorem toNat_cksum1 (F : Frame) : (cksum1 F).toNat =
    (nibs F[0] + nibs F[1] + nibs F[2] + nibs F[3] + nibs F[4] + nibs F[5] + nibs F[6] + F[7].toNat % 16) % 16 := by
  rw [cksum1, toNat_nibsum]
  simp [Nat.add_assoc]

theorem toNat_cksum2 (F : Frame) : (cksum2 F).toNat =
    (nibs F[8] + nibs F[9] + nibs F[10] + nibs F[11] + nibs F[12] + nibs F[13] + nibs F[14] + F[15].toNat % 16) %
      16 := by
  rw [cksum2, toNat_nibsum]
  simp [Nat.add_assoc]

/-- The header, its checksum and zeros: the least frame that is valid (R153). -/
def headerFrame : Frame := #v[0x16, 0, 0, 0, 0, 0, 0, 0x70, 0, 0, 0, 0, 0, 0, 0, 0]

/-- Checksum-1 of a frame whose covered nibbles are the header's alone (R147). -/
theorem cksum1_header_only {F : Frame} (h0 : F[0] = 0x16) (h : ∀ a : Fin 16, 1 ≤ a.val → a.val < 7 → F[a] = 0x00)
    (h7 : lo4 F[7] = 0x0) : cksum1 F = 0x7 := by
  have zeros : ∀ a : Fin 16, 1 ≤ a.val → a.val < 7 → headerFrame[a] = 0x00 := by decide
  have headerOnly : cksum1 F = cksum1 headerFrame := by
    refine cksum1_congr (fun a ha => ?_) h7
    rcases Nat.eq_zero_or_pos a.val with first | later
    · obtain rfl : a = 0 := Fin.ext first
      exact h0
    · rw [h a later ha, zeros a later ha]
  rw [headerOnly]
  rfl

/-- Settles O30: CKSUM1 ends with the sum of its operand's fifteen nibbles. -/
theorem cksum1Sums : Obligations.Cksum1Sums := by
  refine ⟨rfl, fun s => ⟨_, _, exec_cksum1 s, rfl, rfl, rfl, rfl, toNat_cksum1 _⟩, fun F G => cksum1_congr,
    fun F => cksum1_header_only, rfl⟩

/-! ## VALIDATE's answer, test by test (R153) -/

theorem validateFrame_header {F : Frame} (h0 : F[0] ≠ 0x16) : validateFrame F = .error (.header F[0]) := if_pos h0

theorem validateFrame_cksum1 {F : Frame} (h0 : F[0] = 0x16) (h1 : hi4 F[7] ≠ cksum1 F) :
    validateFrame F = .error (.cksum1 (hi4 F[7]) (cksum1 F)) :=
  (if_neg (not_not_intro h0)).trans (if_pos h1)

theorem validateFrame_cksum2 {F : Frame} (h0 : F[0] = 0x16) (h1 : hi4 F[7] = cksum1 F) (h2 : hi4 F[15] ≠ cksum2 F) :
    validateFrame F = .error (.cksum2 (hi4 F[15]) (cksum2 F)) :=
  (if_neg (not_not_intro h0)).trans ((if_neg (not_not_intro h1)).trans (if_pos h2))

theorem validateFrame_ok {F : Frame} (h0 : F[0] = 0x16) (h1 : hi4 F[7] = cksum1 F) (h2 : hi4 F[15] = cksum2 F) :
    validateFrame F = .ok () :=
  (validateFrame_ok_iff F).2 ⟨h0, h1, h2⟩

/-! ## How VALIDATE and PARSE end -/

@[simp] theorem State.withFrame_frame (s : State) (F : Frame) : (s.withFrame F).inp.frame = F := rfl

/-- VALIDATE completes exactly on the frames that pass the tests. -/
theorem completes_validate_iff {s : State} : Completes .validate s .valid ↔ validateFrame s.inp.frame = .ok () := by
  constructor
  · rintro ⟨t, ht, ok, -, -⟩
    cases h : validateFrame s.inp.frame with
    | ok _ => rfl
    | error e =>
      obtain rfl := Host.Outcome.next.inj ((exec_validate_error h).symm.trans ht)
      cases ok
  · exact fun h => ⟨_, exec_validate_ok h, rfl, rfl, rfl⟩

/-- VALIDATE's reject is the answer of the tests. -/
theorem rejects_validate_iff {s : State} {e : Reject} :
    Rejects .validate s e ↔ validateFrame s.inp.frame = .error e := by
  constructor
  · rintro ⟨t, ht, rejected, -, -, -⟩
    cases h : validateFrame s.inp.frame with
    | ok _ =>
      obtain rfl := Host.Outcome.next.inj ((exec_validate_ok h).symm.trans ht)
      cases rejected
    | error e' =>
      obtain rfl := Host.Outcome.next.inj ((exec_validate_error h).symm.trans ht)
      cases rejected
      rfl
  · exact fun h => ⟨_, exec_validate_error h, rfl, rfl, rfl, rfl⟩

theorem rejects_parse {s : State} {e : Reject} (h : validateFrame s.inp.frame = .error e) : Rejects .parse s e :=
  ⟨_, exec_parse_error h, rfl, rfl, rfl, rfl⟩

theorem completes_parse {s : State} (h : validateFrame s.inp.frame = .ok ()) :
    Completes .parse s (.decoded (decodeState s.inp.frame)) :=
  ⟨_, exec_parse_ok h, rfl, rfl, rfl⟩

/-- The decoded state with the power nibble's test written out (R154). -/
theorem decodeState_eq (F : Frame) : decodeState F =
    { power := if lo4 F[10] = 0xC then .off else .on
      mode := if lo4 F[10] = 0xC then .off else modeDec (lo4 F[1])
      fan := fanDec (hi4 F[1])
      targetC := bcdDec F[6]
      preset := presetDec F[7] F[12] } := by
  by_cases off : lo4 F[10] = 0xC
  · simp only [decodeState, powerDec, if_pos off]
  · simp only [decodeState, powerDec, if_neg off]

/-- The frame of R150's example: cool, high, 24 degrees, no preset, no time. -/
def exampleFrame : Frame := #v[0x16, 0x22, 0, 0, 0, 0, 0x24, 0x10, 0, 0, 0x08, 0x75, 0, 0, 0, 0x40]

theorem validateFrame_zeros : validateFrame (Vector.replicate 16 0x00) = .error (.header 0x00) := by decide

theorem validateFrame_headerFrame : validateFrame headerFrame = .ok () := by decide

theorem validateFrame_exampleFrame : validateFrame exampleFrame = .ok () := by decide

theorem decodeState_exampleFrame : decodeState exampleFrame = ⟨.on, .cool, .high, 24, .none⟩ := by decide

/-! ## The obligations -/

/-- Settles O33: each of the tests in turn, the ones before it passed. -/
theorem validateTests : Obligations.ValidateTests := by
  refine ⟨rfl, fun s h0 => rejects_validate_iff.2 (validateFrame_header h0),
    fun s h0 h1 => rejects_validate_iff.2 (validateFrame_cksum1 h0 h1),
    fun s h0 h1 h2 => rejects_validate_iff.2 (validateFrame_cksum2 h0 h1 h2), fun s h0 h1 h2 => ?_,
    fun s => rejects_validate_iff.2 validateFrame_zeros, fun s => completes_validate_iff.2 validateFrame_headerFrame,
    fun s => completes_validate_iff.2 validateFrame_exampleFrame⟩
  have valid := validateFrame_ok h0 h1 h2
  exact ⟨completes_validate_iff.2 valid, _, exec_validate_ok valid, rfl⟩

/-- Settles O34: PARSE runs the tests that VALIDATE runs, and then decodes. -/
theorem parseDecodes : Obligations.ParseDecodes := by
  refine ⟨rfl, fun s e h => rejects_parse (rejects_validate_iff.1 h), fun s h => ?_, fun s => ?_⟩
  · exact ⟨_, exec_parse_ok (completes_validate_iff.1 h), rfl, rfl, rfl, congrArg Result.decoded (decodeState_eq _)⟩
  · rw [← decodeState_exampleFrame]
    exact completes_parse validateFrame_exampleFrame

/-- Settles O55: PARSE on each of VALIDATE's four answers, the preset read off its two bits. -/
theorem parseCompletes : Obligations.ParseCompletes := by
  refine ⟨rfl, fun s h0 => rejects_parse (validateFrame_header h0),
    fun s h0 h1 => rejects_parse (validateFrame_cksum1 h0 h1),
    fun s h0 h1 h2 => rejects_parse (validateFrame_cksum2 h0 h1 h2), fun s h0 h1 h2 => ?_, fun s h => ?_⟩
  · refine ⟨_, exec_parse_ok (validateFrame_ok h0 h1 h2), rfl, rfl, rfl, rfl, ⟨rfl, rfl, rfl⟩, ?_⟩
    rw [← presetDec_eq, ← decodeState_eq]
    rfl
  · have frame : s.inp.frame = exampleFrame := h
    rw [← decodeState_exampleFrame, ← frame]
    exact completes_parse (by rw [frame]; exact validateFrame_exampleFrame)

end Sys2Proof.Machine
end

section
/-!
PROOFS. BUILD's frame (41_frame_builder_parser.md R144, R148-R151): its sixteen bytes in one equation, and which frame
BUILD completes with. The statements about BUILD's frame are read off from the two.
-/

namespace Sys2Proof.Machine

/-! ## The frame of a thermostat state and a time -/

/-- The frame that BUILD's buffer holds at its end (R150). -/
def builtFrame (st : Thermo) (tm : Option Clock) : Frame := (buildBuffer st tm).toFrame

/-- BUILD's frame byte by byte, the checksums being those of the frame itself (R149, R150). -/
theorem builtFrame_eq (st : Thermo) (tm : Option Clock) : builtFrame st tm =
    #v[0x16, join4 (fanEnc st.fan) (modeEnc st.mode), (clockEnc tm).1, (clockEnc tm).2.1, 0x00, 0x00,
      tempcEnc st.targetC, join4 (cksum1 (builtFrame st tm)) (presetEnc st.preset).1,
      0x00, 0x00, powerEnc (powerOfMode st.mode), tempfEnc st.targetC, (presetEnc st.preset).2, 0x00,
      (clockEnc tm).2.2, join4 (cksum2 (builtFrame st tm)) 0x0] := by
  apply Vector.ext
  intro n hn
  have byte : (builtFrame st tm)[n] = _ :=
    (Memory.toFrame_getElem _ n hn).trans (Memory.read_buildBuffer st tm ⟨n, hn⟩)
  rw [byte, Memory.read_buildFields]
  change (if _ then join4 (cksum2 (builtFrame st tm)) 0 else if _ then join4 (cksum1 (builtFrame st tm)) _ else _) = _
  generalize cksum1 (builtFrame st tm) = c1, cksum2 (builtFrame st tm) = c2
  interval_cases n <;> rfl

theorem powerEnc_powerOfMode (m : Mode) : powerEnc (powerOfMode m) = if m = .off then 0x0C else 0x08 := by
  cases m <;> rfl

/-- VALIDATE accepts every frame that BUILD makes (R151, R153). -/
theorem validateFrame_builtFrame (st : Thermo) (tm : Option Clock) : validateFrame (builtFrame st tm) = .ok () := by
  have bytes := builtFrame_eq st tm
  generalize builtFrame st tm = F at bytes
  generalize sum1 : cksum1 F = c1, sum2 : cksum2 F = c2 at bytes
  subst bytes
  exact validateFrame_ok rfl ((hi4_join4 _ _).trans sum1.symm) ((hi4_join4 _ _).trans sum2.symm)

/-! ## What BUILD completes with -/

/-- What a written buffer and a result leave, for a buffer as a variable: with BUILD's buffer in its place, unification
would reduce the buffer's nested writes. -/
theorem exists_next_of_putFb {i : Instr} {s : State} {m : Memory} {r : Result}
    (h : exec i s = .next ((s.start.putFb m).finish r)) :
    ∃ t, exec i s = .next t ∧ t.status = .ok ∧ t.result = r ∧ t.publish = false ∧ t.faulted = s.faulted ∧ t.fb = m :=
  ⟨_, h, rfl, rfl, rfl, rfl, rfl⟩

/-- BUILD ends with its frame as the result and in FB (R60, R151). -/
theorem exec_build {s : State} {st : Thermo} (h : thermoOf s.inp = some st) :
    ∃ t, exec .build s = .next t ∧ t.status = .ok ∧ t.result = .frame (builtFrame st (timeOf s.inp.time)) ∧
      t.publish = false ∧ t.faulted = s.faulted ∧ t.fb = buildBuffer st (timeOf s.inp.time) :=
  exists_next_of_putFb (exec_build_some h)

/-- BUILD completes on the ports that hold a thermostat state, with that state's frame. -/
theorem completes_build_iff {s : State} {F : Frame} : Completes .build s (.frame F) ↔
    ∃ st, thermoOf s.inp = some st ∧ F = builtFrame st (timeOf s.inp.time) := by
  constructor
  · rintro ⟨t, ht, ok, result, -⟩
    cases h : thermoOf s.inp with
    | none =>
      obtain rfl := Host.Outcome.next.inj ((exec_build_none h).symm.trans ht)
      cases ok
    | some st =>
      obtain ⟨t', ht', -, result', -⟩ := exec_build h
      obtain rfl := Host.Outcome.next.inj (ht'.symm.trans ht)
      exact ⟨st, rfl, Result.frame.inj (result.symm.trans result')⟩
  · rintro ⟨st, h, rfl⟩
    obtain ⟨t, ht, ok, result, -, faulted, -⟩ := exec_build h
    exact ⟨t, ht, ok, result, faulted⟩

/-- A thermostat state is on the ports exactly when each port holds its field (R107). -/
theorem thermoOf_eq_some_iff {x : Inputs} {st : Thermo} : thermoOf x = some st ↔
    modeOf x.mode = some st.mode ∧ fanOf x.fan = st.fan ∧ tempOf x.targetC = some st.targetC ∧
      presetOf x.preset = some st.preset := by
  obtain ⟨mode, fan, targetC, preset⟩ := st
  unfold thermoOf
  cases modeOf x.mode <;> cases presetOf x.preset <;> cases tempOf x.targetC <;> simp

/-! ## The preset flags (R144) -/

theorem exists_presetOf {c : BitVec 2} (h : c.toNat < 3) : ∃ p, presetOf c = some p := by
  rw [← Option.isSome_iff_exists]
  revert c; decide

/-- The two flag fields of a port code. -/
theorem presetEnc_of_presetOf : ∀ c : BitVec 2, ∀ p ∈ presetOf c,
    presetEnc p = (if c = 2 then 0x2 else 0x0, if c = 1 then 0x04 else 0x00) := by
  decide

/-! ## The obligations -/

/-- Settles O28: the flags of a port code, and BUILD's bytes 7 and 12, which hold those of its preset. -/
theorem presetEncFlags : Obligations.PresetEncFlags := by
  refine ⟨rfl, fun s h => ?_, fun s h => faults_of_exec (exec_presetEnc_none (by rw [h]; rfl)), fun s F h => ?_, rfl⟩
  · obtain ⟨p, hp⟩ := exists_presetOf h
    have flags := exec_presetEnc_some hp
    rw [presetEnc_of_presetOf _ p hp] at flags
    exact completesPlain_of_exec flags
  · obtain ⟨st, hst, rfl⟩ := completes_build_iff.1 h
    obtain ⟨-, -, -, hp⟩ := thermoOf_eq_some_iff.1 hst
    have asPair : ∀ c : BitVec 2, ((if c = 2 then 0x2 else 0x0, if c = 1 then 0x04 else 0x00) : Nibble × Byte) =
        if c = 2 then (0x2, 0x00) else if c = 1 then (0x0, 0x04) else (0x0, 0x00) := by decide
    rw [← asPair, ← presetEnc_of_presetOf _ _ hp, builtFrame_eq]
    exact congrArg (fun flags => (flags, (presetEnc st.preset).2)) (lo4_join4 _ _)

/-- Settles O31: CKSUM2 ends with the sum of its operand's fifteen nibbles, and BUILD leaves the last one 0. -/
theorem cksum2Sums : Obligations.Cksum2Sums := by
  refine ⟨rfl, fun s => ⟨_, _, exec_cksum2 s, rfl, rfl, rfl, rfl, toNat_cksum2 _⟩, fun F G => cksum2_congr,
    fun s F h => ?_, rfl, rfl⟩
  obtain ⟨st, -, rfl⟩ := completes_build_iff.1 h
  rw [builtFrame_eq]
  exact lo4_join4 _ _

/-- Settles O32: the fields are the entries of BUILD's frame, and the example's frame is computed. -/
theorem buildFrameBytes : Obligations.BuildFrameBytes := by
  refine ⟨rfl, fun s st h => ?_, fun s mode fan temp preset time => ?_⟩
  · obtain ⟨t, ht, ok, result, publish, faulted, fb⟩ := exec_build h
    have valid : Completes .validate (s.withFrame (builtFrame st (timeOf s.inp.time))) .valid :=
      completes_validate_iff.2 (validateFrame_builtFrame _ _)
    have inFb : ∀ a : Fin 16, t.fb.read a = (builtFrame st (timeOf s.inp.time))[a] := fun a => by
      rw [fb]
      exact (Memory.toFrame_get _ a).symm
    have bytes := builtFrame_eq st (timeOf s.inp.time)
    generalize builtFrame st (timeOf s.inp.time) = F at result valid inFb bytes
    generalize sum1 : cksum1 F = c1, sum2 : cksum2 F = c2 at bytes
    subst bytes
    exact ⟨t, _, ht, ok, result, publish, faulted, inFb, rfl, hi4_join4 _ _, lo4_join4 _ _, rfl, rfl, rfl, rfl,
      congrArg (fun flags => (flags, (presetEnc st.preset).2)) (lo4_join4 _ _), rfl, rfl, powerEnc_powerOfMode _, rfl, rfl,
      lo4_join4 _ _, (hi4_join4 _ _).trans sum1.symm, (hi4_join4 _ _).trans sum2.symm, valid⟩
  · have thermo : thermoOf s.inp = some ⟨.cool, .high, ⟨24, 1⟩, .none⟩ :=
      thermoOf_eq_some_iff.2 ⟨by rw [mode]; rfl, by rw [fan]; rfl, by rw [temp]; rfl, by rw [preset]; rfl⟩
    refine completes_build_iff.2 ⟨_, thermo, ?_⟩
    rw [timeOf_of_not_valid (by simp [time])]
    decide

end Sys2Proof.Machine
end

section
/-!
PROOFS. The transmit path's pulses (42_pulse_codec.md R190, R191): a train as five stretches of pulses, the elements
between the data joined, and which of its pulses stand where (30_encoding.md R104).
-/

namespace Sys2Proof.Machine

/-! ## A train as five stretches -/

/-- The six pulses between the two sections' bits: the footer, the marker and header 2 (R104). -/
def gapPulses : List Pulse :=
  [⟨.mark, 340⟩, ⟨.space, 20600⟩, ⟨.mark, 4600⟩, ⟨.space, 6700⟩, ⟨.mark, 9300⟩, ⟨.space, 5000⟩]

/-- The three pulses after section 2's bits: the footer and the final mark (R104). -/
def endPulses : List Pulse := [⟨.mark, 340⟩, ⟨.space, 20600⟩, ⟨.mark, 4600⟩]

/-- The train with the elements between the data joined (R191). -/
theorem encodeTrain_eq (F : Frame) : encodeTrain F =
    [⟨.mark, 4600⟩, ⟨.space, 2600⟩] ++ emitBits (section1 F) ++ gapPulses ++ emitBits (section2 F) ++ endPulses := by
  simp only [encodeTrain, List.append_assoc]
  rfl

@[simp] theorem encodeTrain_length (F : Frame) : (encodeTrain F).length = 267 := by
  simp [encodeTrain_eq, gapPulses, endPulses]

/-- The pulses 130 to 135 of every train (R104). -/
theorem encodeTrain_getElem?_gap (F : Frame) {k : Nat} (hk : k < 6) : (encodeTrain F)[130 + k]? = gapPulses[k]? := by
  rw [encodeTrain_eq, List.append_assoc _ (emitBits (section2 F)), List.append_assoc _ gapPulses]
  exact getElem?_append_middle (by simp) hk _

/-- The pulses 264 to 266 of every train (R104). -/
theorem encodeTrain_getElem?_end (F : Frame) (k : Nat) : (encodeTrain F)[264 + k]? = endPulses[k]? := by
  rw [encodeTrain_eq, List.getElem?_append_right] <;> simp [gapPulses]

/-- The durations of a section add up byte by byte. -/
theorem sum_dur_emitBits (B : Section8) : ((emitBits B).map Pulse.dur).sum =
    (idx8.map fun i => ((emitByte B[i]).map Pulse.dur).sum).sum := by
  rw [emitBits, List.map_flatMap, List.flatMap, List.sum_flatten, List.map_map]
  rfl

/-- The airtime of the train of R150's example (R191). -/
theorem sum_dur_encodeTrain_exampleFrame : ((encodeTrain exampleFrame).map Pulse.dur).sum = 183000 := by
  rw [encodeTrain_eq]
  simp only [List.map_append, List.sum_append, sum_dur_emitBits]
  rfl

/-! ## The obligations -/

/-- Settles O38: the 128 pulses of a section bit by bit, and the three bytes evaluated. -/
theorem emitBitsPulses : Obligations.EmitBitsPulses := by
  refine ⟨rfl, fun s => ⟨_, emitBits s.inp.bytes, exec_emitBits s, rfl, rfl, rfl, rfl, rfl, Memory.read_nil,
    emitBits_length _, fun i j => ⟨?_, ?_⟩⟩, rfl, rfl, by decide⟩
  · exact (emitBits_getElem? _ i j (k := 0) (by decide)).trans (emitBit_mark _)
  · exact (emitBits_getElem? _ i j (by decide)).trans (emitBit_space _)

/-- Settles O39: ENCODE leaves the train in PT_OUT, whose stretches are the elements; the example is evaluated. -/
theorem encodeElements : Obligations.EncodeElements := by
  refine ⟨rfl, fun s => ⟨_, exec_encode s, rfl, rfl, rfl, rfl, encodeTrain_length _, encodeTrain_eq _⟩, ?_⟩
  rintro F rfl
  exact ⟨rfl, encodeTrain_getElem?_end _ 2, sum_dur_encodeTrain_exampleFrame⟩

end Sys2Proof.Machine
end

section
/-!
PROOFS. The receive path's checks issued alone (42_pulse_codec.md R194, R196-R198): how such an operation ends, and what
a check answers on the pulses at the cursor.
-/

namespace Sys2Proof.Machine

/-! ## From an operation's equation to its ending -/

/-- An expect check writes its flag and cursor, and nothing else (R194). -/
theorem checksTo_of_exec {i : Instr} {s : State} {m : Bool} {k : Nat}
    (h : exec i s = .next (s.startCur.finishCheck (m, k))) : ChecksTo i s m k :=
  ⟨⟨_, h, rfl, rfl, rfl, rfl, Memory.read_nil, rfl⟩, _, h, rfl⟩

/-- A read that only moves the position and puts a result on the ports writes no flag (R197, R198). -/
theorem completesPlain_of_exec_putPos {i : Instr} {s : State} {c : Nat} {d : Dpc} {r : Result}
    (h : exec i s = .next ((s.startCur.putPos c d).finish r)) : CompletesPlain i s r :=
  ⟨_, h, rfl, rfl, rfl, rfl, Memory.read_nil, rfl⟩

/-- A reject of the receive path leaves no result (R241). -/
theorem rejects_of_exec_rejectAt {i : Instr} {s t : State} {e : Reject} (h : exec i s = .next (t.rejectAt e))
    (hf : t.faulted = s.faulted) : Rejects i s e :=
  ⟨_, h, rfl, rfl, rfl, hf⟩

/-! ## What a check answers -/

/-- A pulse that stands in the capture does not match where its level or its duration does not. -/
theorem pulseMatches_eq_false {tol : Tol} {pt : List Pulse} {k d : Nat} {l : Level} {p : Pulse} (hp : pt[k]? = some p)
    (h : p.level ≠ l ∨ tol l d p.dur = false) : pulseMatches tol pt k l d = false := by
  rw [Bool.eq_false_iff, Ne, pulseMatches_iff]
  rintro ⟨q, hq, level, dur⟩
  obtain rfl := Option.some.inj (hp.symm.trans hq)
  rcases h with h | h
  · exact h level
  · simp [dur] at h

theorem checkMark_of_matches {tol : Tol} {pt : List Pulse} {cur d : Nat} (h : pulseMatches tol pt cur .mark d = true) :
    checkMark tol pt cur d = (true, cur + 1) := if_pos h

theorem checkMark_of_not_matches {tol : Tol} {pt : List Pulse} {cur d : Nat}
    (h : pulseMatches tol pt cur .mark d = false) : checkMark tol pt cur d = (false, cur) := by
  simp [checkMark, h]

theorem not_pairAt_of_mark {tol : Tol} {pt : List Pulse} {k m s : Nat} (h : pulseMatches tol pt k .mark m = false) :
    ¬ PairAt tol pt k m s := fun ⟨mark, _⟩ => by simp [h] at mark

theorem not_pairAt_of_space {tol : Tol} {pt : List Pulse} {k m s : Nat}
    (h : pulseMatches tol pt (k + 1) .space s = false) : ¬ PairAt tol pt k m s := fun ⟨_, space⟩ => by simp [h] at space

theorem checkPair_of_pairAt {tol : Tol} {pt : List Pulse} {cur m s : Nat} (h : PairAt tol pt cur m s) :
    checkPair tol pt cur m s = (true, cur + 2) := by
  rcases checkPair_cases tol pt cur m s with ⟨-, e⟩ | ⟨h', -⟩
  · exact e
  · exact absurd h h'

theorem checkPair_of_not_pairAt {tol : Tol} {pt : List Pulse} {cur m s : Nat} (h : ¬ PairAt tol pt cur m s) :
    checkPair tol pt cur m s = (false, cur) := by
  rcases checkPair_cases tol pt cur m s with ⟨h', -⟩ | ⟨-, e⟩
  · exact absurd h' h
  · exact e

/-! ## EXPECT_MARK and EXPECT_PAIR -/

theorem checksTo_expectMark {s : State} {m : Bool} {k : Nat}
    (h : checkMark (tolMatch s.tol) s.inp.ptIn s.inp.cur s.inp.markDur = (m, k)) : ChecksTo .expectMark s m k :=
  checksTo_of_exec ((exec_expectMark s).trans (by rw [h]))

theorem checksTo_expectPair {s : State} {m : Bool} {k : Nat}
    (h : checkPair (tolMatch s.tol) s.inp.ptIn s.inp.cur s.inp.markDur s.inp.spaceDur = (m, k)) :
    ChecksTo .expectPair s m k :=
  checksTo_of_exec ((exec_expectPair s).trans (by rw [h]))

/-- Settles O43: the check on a mark that matches, on a pulse that does not, and past the end. -/
theorem expectMarkChecks : Obligations.ExpectMarkChecks := by
  refine ⟨rfl, fun s p hp level dur => ?_, fun s p hp bad => ?_, fun s past => ?_, rfl⟩
  · exact checksTo_expectMark (checkMark_of_matches (pulseMatches_iff.2 ⟨p, hp, level, dur⟩))
  · exact checksTo_expectMark (checkMark_of_not_matches
      (pulseMatches_eq_false hp (bad.imp_left fun level => by simp [level])))
  · exact checksTo_expectMark (checkMark_of_not_matches (pulseMatches_past _ _ past))

/-- Settles O45: the check on a pair that matches, on two pulses one of which does not, and with at most one pulse
left, where the space is missing. -/
theorem expectPairChecks : Obligations.ExpectPairChecks := by
  refine ⟨rfl, fun s p q hp hq markLevel markDur spaceLevel spaceDur => ?_, fun s p q hp hq bad => ?_,
    fun s past => ?_, rfl, rfl⟩
  · exact checksTo_expectPair (checkPair_of_pairAt
      ⟨pulseMatches_iff.2 ⟨p, hp, markLevel, markDur⟩, pulseMatches_iff.2 ⟨q, hq, spaceLevel, spaceDur⟩⟩)
  · refine checksTo_expectPair (checkPair_of_not_pairAt ?_)
    rcases bad with level | dur | level | dur
    · exact not_pairAt_of_mark (pulseMatches_eq_false hp (.inl (by simp [level])))
    · exact not_pairAt_of_mark (pulseMatches_eq_false hp (.inr dur))
    · exact not_pairAt_of_space (pulseMatches_eq_false hq (.inl (by simp [level])))
    · exact not_pairAt_of_space (pulseMatches_eq_false hq (.inr dur))
  · exact checksTo_expectPair (checkPair_of_not_pairAt (not_pairAt_of_space (pulseMatches_past _ _ past)))

/-! ## DECODE_BIT and CONSUME_BITS -/

theorem completesPlain_decodeBit {s : State} {b : Bool} (h : BitAt (tolMatch s.tol) s.inp.ptIn s.inp.cur b) :
    CompletesPlain .decodeBit s (.bit b (s.inp.cur + 2)) :=
  completesPlain_of_exec_putPos (exec_decodeBit_ok (readBit_of_bitAt _ h))

/-- A footer pair reads as no bit, unless the tolerance accepts its space as a bit's (R197). -/
theorem noBitAt_of_footer {tol : Tol} {pt : List Pulse} {k : Nat} (hs : pt[k + 1]? = some ⟨.space, 20600⟩)
    (h1 : tol .space 1000 20600 = false) (h0 : tol .space 400 20600 = false) : NoBitAt tol pt k :=
  ⟨not_pairAt_of_space (pulseMatches_eq_false hs (.inr h1)), not_pairAt_of_space (pulseMatches_eq_false hs (.inr h0))⟩

/-- Settles O46: the operation ends as the read of one bit at the cursor does. -/
theorem decodeBitReads : Obligations.DecodeBitReads :=
  ⟨rfl, fun _ one => completesPlain_decodeBit (b := true) one,
    fun _ notOne zero => completesPlain_decodeBit (b := false) ⟨notOne, zero⟩,
    fun _ none => rejects_of_exec_rejectAt (exec_decodeBit_error (readBit_of_noBitAt _ none)) rfl,
    fun _ _ d _ none => readBit_of_noBitAt d none,
    fun _ _ _ _ space h1 h0 => noBitAt_of_footer space h1 h0, rfl⟩

/-- Settles O47: the operation ends as the read of a section at the cursor does, in element 0. -/
theorem consumeBitsReads : Obligations.ConsumeBitsReads :=
  ⟨rfl, fun _ B bits => completesPlain_of_exec_putPos (exec_consumeBits_ok (consumeBits_of_bitAt 0 B _ bits)),
    fun _ i j before none =>
      rejects_of_exec_rejectAt (exec_consumeBits_error (consumeBits_of_noBitAt 0 _ i j before none)) rfl,
    rfl⟩

end Sys2Proof.Machine
end

section
/-!
PROOFS. DECODE against the timing grammar (30_encoding.md R104, 42_pulse_codec.md R199, R202). The decoder's checks come
in the order of their pulses, so its answer is told by one walk along them: where all checks so far match, the next
element either matches as well or holds the first mismatch. A capture has one such answer, and it rests on the pulses
below index 267 alone.
-/

namespace Sys2Proof.Machine

/-! ## The positions in the order of their pulses -/

/-- Each check's element, bit and pulse index as numbers (R104). -/
theorem IsCheck.place {d : Dpc} (h : IsCheck d) :
    (d.e.val = 1 ∧ posCur d = 2 + 2 * bitNo d.i d.j) ∨ (d.e.val = 5 ∧ posCur d = 136 + 2 * bitNo d.i d.j) ∨
    (d.i.val = 0 ∧ d.j.val = 0 ∧
      ((d.e.val = 0 ∧ posCur d = 0) ∨ (d.e.val = 2 ∧ posCur d = 130) ∨ (d.e.val = 3 ∧ posCur d = 132) ∨
        (d.e.val = 4 ∧ posCur d = 134) ∨ (d.e.val = 6 ∧ posCur d = 264) ∨ (d.e.val = 7 ∧ posCur d = 266))) := by
  obtain ⟨⟨e, he⟩, i, j⟩ := d
  obtain ⟨lt, kind⟩ := h
  simp only [Fin.ext_iff] at lt kind
  interval_cases e <;> simp [posCur] at kind ⊢ <;> exact kind

/-- No two checks stand at one pulse index. -/
theorem IsCheck.eq_of_posCur_eq {d d' : Dpc} (h : IsCheck d) (h' : IsCheck d') (eq : posCur d = posCur d') : d = d' := by
  have place := h.place
  have place' := h'.place
  obtain ⟨e, i, j⟩ := d
  obtain ⟨e', i', j'⟩ := d'
  simp only [bitNo] at place place'
  simp only [Dpc.mk.injEq, Fin.ext_iff]
  omega

/-- Checks begin at even pulse indexes (R104). -/
theorem IsCheck.posCur_even {d : Dpc} (h : IsCheck d) : posCur d % 2 = 0 := by
  have place := h.place
  omega

theorem IsCheck.posCur_lt {d : Dpc} (h : IsCheck d) : posCur d < 267 := by
  have place := h.place
  simp only [bitNo] at place
  omega

theorem isCheck_start {e : Fin 9} (h : e.val < 8) : IsCheck ⟨e, 0, 0⟩ := ⟨h, .inr (.inr ⟨rfl, rfl⟩)⟩

/-- Element `e` is one of the two of data bits, and its first bit stands at pulse `c` (R104). -/
def DataFrom (e : Fin 9) (c : Nat) : Prop := (e = 1 ∧ c = 2) ∨ (e = 5 ∧ c = 136)

theorem DataFrom.isCheck {e : Fin 9} {c : Nat} (he : DataFrom e c) (i j : Fin 8) : IsCheck ⟨e, i, j⟩ := by
  rcases he with ⟨rfl, -⟩ | ⟨rfl, -⟩ <;> simp [IsCheck]

theorem DataFrom.posCur_eq {e : Fin 9} {c : Nat} (he : DataFrom e c) (i j : Fin 8) :
    posCur ⟨e, i, j⟩ = c + 2 * bitNo i j := by
  rcases he with ⟨rfl, rfl⟩ | ⟨rfl, rfl⟩ <;> rfl

theorem DataFrom.matchesAt_iff {tol : Tol} {pt : List Pulse} {e : Fin 9} {c : Nat} (he : DataFrom e c) (i j : Fin 8) :
    MatchesAt tol pt ⟨e, i, j⟩ ↔ ∃ b, BitAt tol pt (c + 2 * bitNo i j) b := by
  rcases he with ⟨rfl, rfl⟩ | ⟨rfl, rfl⟩ <;> exact Iff.rfl

/-- The checks on the 128 pulses of an element of data bits are those of its bits. -/
theorem DataFrom.e_eq {e : Fin 9} {c : Nat} (he : DataFrom e c) {d : Dpc} (hd : IsCheck d) (ge : c ≤ posCur d)
    (lt : posCur d < c + 128) : d.e = e := by
  have place := hd.place
  simp only [bitNo] at place
  rw [Fin.ext_iff]
  rcases he with ⟨rfl, rfl⟩ | ⟨rfl, rfl⟩ <;> simp only [Fin.isValue, Fin.coe_ofNat_eq_mod] <;> omega

/-! ## Captures that match so far -/

/-- The capture matches the grammar at every check before pulse `k`. -/
def MatchesBefore (tol : Tol) (pt : List Pulse) (k : Nat) : Prop :=
  ∀ d, IsCheck d → posCur d < k → MatchesAt tol pt d

theorem matchesBefore_zero (tol : Tol) (pt : List Pulse) : MatchesBefore tol pt 0 := fun _ _ lt => absurd lt (by simp)

/-- A check takes two pulses, so none stands between it and the second pulse after it. -/
theorem MatchesBefore.add_two {tol : Tol} {pt : List Pulse} {d : Dpc} (before : MatchesBefore tol pt (posCur d))
    (hd : IsCheck d) (here : MatchesAt tol pt d) : MatchesBefore tol pt (posCur d + 2) := fun d' hd' lt => by
  have even := hd.posCur_even
  have even' := hd'.posCur_even
  rcases Nat.lt_or_ge (posCur d') (posCur d) with lt' | ge
  · exact before d' hd' lt'
  · obtain rfl := hd.eq_of_posCur_eq hd' (by omega)
    exact here

/-- The first `n` bits of an element of data bits. -/
theorem MatchesBefore.add_bits {tol : Tol} {pt : List Pulse} {e : Fin 9} {c n : Nat}
    (before : MatchesBefore tol pt c) (he : DataFrom e c) (hn : n ≤ 64)
    (bits : ∀ i j : Fin 8, bitNo i j < n → ∃ b, BitAt tol pt (c + 2 * bitNo i j) b) :
    MatchesBefore tol pt (c + 2 * n) := fun d hd lt => by
  rcases Nat.lt_or_ge (posCur d) c with lt' | ge
  · exact before d hd lt'
  · obtain rfl := he.e_eq hd ge (by omega)
    have place : posCur d = c + 2 * bitNo d.i d.j := he.posCur_eq d.i d.j
    exact (he.matchesAt_iff d.i d.j).2 (bits d.i d.j (by omega))

/-! ## The walk along the grammar -/

/-- The two answers that the grammar allows: the frame that the capture carries, or the reject of its first mismatch. -/
def AnswersGrammar (tol : Tol) (pt : List Pulse) (r : Except Reject (Frame × Nat)) : Prop :=
  (∃ F, CarriesFrame tol pt F ∧ r = .ok (F, 267)) ∨
  ∃ d, FirstMismatch tol pt d ∧ r = .error (.pulse d (posCur d))

/-- A pair element: its reject is the first mismatch, or the walk goes on behind its two pulses. -/
theorem answersGrammar_needPair {tol : Tol} {pt : List Pulse} {d : Dpc} {m s : Nat}
    {k : Nat → Except Reject (Frame × Nat)} (hd : IsCheck d)
    (pair : MatchesAt tol pt d ↔ PairAt tol pt (posCur d) m s) (before : MatchesBefore tol pt (posCur d))
    (next : MatchesBefore tol pt (posCur d + 2) → AnswersGrammar tol pt (k (posCur d + 2))) :
    AnswersGrammar tol pt (needPair tol pt d (posCur d) m s >>= k) := by
  rcases needPair_cases tol pt d (posCur d) m s with ⟨h, e⟩ | ⟨h, e⟩ <;> rw [e]
  · exact next (before.add_two hd (pair.2 h))
  · exact .inr ⟨d, ⟨hd, fun matched => h (pair.1 matched), before⟩, rfl⟩

/-- The final mark: its reject is the first mismatch, or the capture matches to the end. -/
theorem answersGrammar_needMark {tol : Tol} {pt : List Pulse} {k : Nat → Except Reject (Frame × Nat)}
    (before : MatchesBefore tol pt 266) (next : MatchesBefore tol pt 268 → AnswersGrammar tol pt (k 267)) :
    AnswersGrammar tol pt (needMark tol pt ⟨7, 0, 0⟩ 266 4600 >>= k) := by
  have hd : IsCheck ⟨7, 0, 0⟩ := isCheck_start (by decide)
  rcases needMark_cases tol pt ⟨7, 0, 0⟩ 266 4600 with ⟨h, e⟩ | ⟨h, e⟩ <;> rw [e]
  · exact next (MatchesBefore.add_two (d := ⟨7, 0, 0⟩) before hd h)
  · exact .inr ⟨⟨7, 0, 0⟩, ⟨hd, Bool.eq_false_iff.1 h, before⟩, rfl⟩

/-- An element of data bits: the first position that reads as no bit, or the walk goes on with eight bytes. -/
theorem answersGrammar_consumeBits {tol : Tol} {pt : List Pulse} {e : Fin 9} {c : Nat}
    {k : Section8 × Nat → Except Reject (Frame × Nat)} (he : DataFrom e c) (before : MatchesBefore tol pt c)
    (next : ∀ S : Section8, (∀ i j : Fin 8, BitAt tol pt (c + 2 * bitNo i j) (S[i].getLsbD j)) →
      MatchesBefore tol pt (c + 128) → AnswersGrammar tol pt (k (S, c + 128))) :
    AnswersGrammar tol pt (consumeBits tol pt e c >>= k) := by
  rcases section_cases tol pt c with ⟨S, bits⟩ | ⟨i, j, bitsBefore, none⟩
  · rw [consumeBits_of_bitAt e S c bits]
    exact next S bits (before.add_bits he (le_refl 64) fun i j _ => ⟨_, bits i j⟩)
  · rw [consumeBits_of_noBitAt e c i j bitsBefore none, ← he.posCur_eq]
    refine .inr ⟨⟨e, i, j⟩, ⟨he.isCheck i j, fun matched => ?_, ?_⟩, rfl⟩
    · obtain ⟨b, bit⟩ := (he.matchesAt_iff i j).1 matched
      exact none.not_bitAt bit
    · rw [he.posCur_eq]
      exact before.add_bits he (by unfold bitNo; omega) bitsBefore

theorem section1_joinSections (A B : Section8) : section1 (joinSections A B) = A := by
  ext1 i hi
  interval_cases i <;> rfl

theorem section2_joinSections (A B : Section8) : section2 (joinSections A B) = B := by
  ext1 i hi
  interval_cases i <;> rfl

theorem joinSections_sections (F : Frame) : joinSections (section1 F) (section2 F) = F := by
  ext1 i hi
  interval_cases i <;> rfl

/-- A capture that matches to the end carries the frame of the two sections read (R199). -/
theorem MatchesBefore.carriesFrame {tol : Tol} {pt : List Pulse} {A B : Section8} (all : MatchesBefore tol pt 268)
    (bitsA : ∀ i j : Fin 8, BitAt tol pt (2 + 2 * bitNo i j) (A[i].getLsbD j))
    (bitsB : ∀ i j : Fin 8, BitAt tol pt (136 + 2 * bitNo i j) (B[i].getLsbD j)) :
    CarriesFrame tol pt (joinSections A B) := by
  refine ⟨fun d hd => all d hd (by have := hd.posCur_lt; omega), ?_, ?_⟩
  · rwa [section1_joinSections]
  · rwa [section2_joinSections]

/-- The decoder walks along the eight elements (R199). -/
theorem answersGrammar_decodeTrain (tol : Tol) (pt : List Pulse) : AnswersGrammar tol pt (decodeTrain tol pt) := by
  refine answersGrammar_needPair (d := ⟨0, 0, 0⟩) (isCheck_start (by decide)) Iff.rfl (matchesBefore_zero tol pt)
    fun before => ?_
  refine answersGrammar_consumeBits (c := 2) (.inl ⟨rfl, rfl⟩) before fun A bitsA before => ?_
  refine answersGrammar_needPair (d := ⟨2, 0, 0⟩) (isCheck_start (by decide)) Iff.rfl before fun before => ?_
  refine answersGrammar_needPair (d := ⟨3, 0, 0⟩) (isCheck_start (by decide)) Iff.rfl before fun before => ?_
  refine answersGrammar_needPair (d := ⟨4, 0, 0⟩) (isCheck_start (by decide)) Iff.rfl before fun before => ?_
  refine answersGrammar_consumeBits (c := 136) (.inr ⟨rfl, rfl⟩) before fun B bitsB before => ?_
  refine answersGrammar_needPair (d := ⟨6, 0, 0⟩) (isCheck_start (by decide)) Iff.rfl before fun before => ?_
  exact answersGrammar_needMark before fun all => .inl ⟨_, all.carriesFrame bitsA bitsB, rfl⟩

/-! ## There is one answer -/

theorem FirstMismatch.eq {tol : Tol} {pt : List Pulse} {d d' : Dpc} (h : FirstMismatch tol pt d)
    (h' : FirstMismatch tol pt d') : d = d' := by
  obtain ⟨hd, mismatch, before⟩ := h
  obtain ⟨hd', mismatch', before'⟩ := h'
  rcases Nat.lt_trichotomy (posCur d) (posCur d') with lt | eq | gt
  · exact absurd (before' d hd lt) mismatch
  · exact hd.eq_of_posCur_eq hd' eq
  · exact absurd (before d' hd' gt) mismatch'

theorem CarriesFrame.not_firstMismatch {tol : Tol} {pt : List Pulse} {F : Frame} (h : CarriesFrame tol pt F) (d : Dpc) :
    ¬ FirstMismatch tol pt d := fun ⟨hd, mismatch, _⟩ => mismatch (h.1 d hd)

/-- The bits of a section name its bytes, since the section reader answers with them. -/
theorem section_eq_of_bitAt {tol : Tol} {pt : List Pulse} {c : Nat} {S T : Section8}
    (hS : ∀ i j : Fin 8, BitAt tol pt (c + 2 * bitNo i j) (S[i].getLsbD j))
    (hT : ∀ i j : Fin 8, BitAt tol pt (c + 2 * bitNo i j) (T[i].getLsbD j)) : S = T := by
  have read := (consumeBits_of_bitAt 1 S c hS).symm.trans (consumeBits_of_bitAt 1 T c hT)
  exact congrArg Prod.fst (Except.ok.inj read)

theorem CarriesFrame.eq {tol : Tol} {pt : List Pulse} {F G : Frame} (hF : CarriesFrame tol pt F)
    (hG : CarriesFrame tol pt G) : F = G := by
  obtain ⟨-, F1, F2⟩ := hF
  obtain ⟨-, G1, G2⟩ := hG
  rw [← joinSections_sections F, ← joinSections_sections G, section_eq_of_bitAt F1 G1, section_eq_of_bitAt F2 G2]

/-- DECODE's computation gives the frame that the capture carries (R199). -/
theorem decodeTrain_of_carriesFrame {tol : Tol} {pt : List Pulse} {F : Frame} (h : CarriesFrame tol pt F) :
    decodeTrain tol pt = .ok (F, 267) := by
  rcases answersGrammar_decodeTrain tol pt with ⟨G, carries, e⟩ | ⟨d, mismatch, -⟩
  · rw [e, h.eq carries]
  · exact absurd mismatch (h.not_firstMismatch d)

/-- DECODE's computation rejects at the first mismatch (R199). -/
theorem decodeTrain_of_firstMismatch {tol : Tol} {pt : List Pulse} {d : Dpc} (h : FirstMismatch tol pt d) :
    decodeTrain tol pt = .error (.pulse d (posCur d)) := by
  rcases answersGrammar_decodeTrain tol pt with ⟨F, carries, -⟩ | ⟨d', mismatch, e⟩
  · exact absurd h (carries.not_firstMismatch d)
  · rw [e, h.eq mismatch]

/-! ## The answer on a part of a capture -/

theorem pulseMatches_take {tol : Tol} {pt : List Pulse} {n k : Nat} (h : k < n) (l : Level) (d : Nat) :
    pulseMatches tol (pt.take n) k l d = pulseMatches tol pt k l d := by
  unfold pulseMatches
  rw [List.getElem?_take_of_lt h]

theorem pairAt_take {tol : Tol} {pt : List Pulse} {n k : Nat} (h : k + 1 < n) (m s : Nat) :
    PairAt tol (pt.take n) k m s ↔ PairAt tol pt k m s := by
  unfold PairAt
  rw [pulseMatches_take (by omega), pulseMatches_take h]

theorem bitAt_take {tol : Tol} {pt : List Pulse} {n k : Nat} (h : k + 1 < n) (b : Bool) :
    BitAt tol (pt.take n) k b ↔ BitAt tol pt k b := by
  cases b <;> simp only [BitAt, pairAt_take h]

/-- A check reads two pulses, and the last one, at pulse 266, one. -/
theorem matchesAt_take {tol : Tol} {pt : List Pulse} {n : Nat} {d : Dpc} (hd : IsCheck d)
    (h : min (posCur d + 2) 267 ≤ n) : MatchesAt tol (pt.take n) d ↔ MatchesAt tol pt d := by
  have one : posCur d < n := by have := hd.posCur_lt; omega
  have two : d.e.val ≠ 7 → posCur d + 1 < n := fun he => by
    have place := hd.place
    simp only [bitNo] at place
    omega
  have lt := hd.1
  obtain ⟨⟨e, he⟩, i, j⟩ := d
  interval_cases e
  · exact pairAt_take (two (by simp)) _ _
  · exact exists_congr (bitAt_take (two (by simp)))
  · exact pairAt_take (two (by simp)) _ _
  · exact pairAt_take (two (by simp)) _ _
  · exact pairAt_take (two (by simp)) _ _
  · exact exists_congr (bitAt_take (two (by simp)))
  · exact pairAt_take (two (by simp)) _ _
  · exact iff_of_eq (congrArg (· = true) (pulseMatches_take one _ _))

theorem CarriesFrame.take {tol : Tol} {pt : List Pulse} {F : Frame} (h : CarriesFrame tol pt F) :
    CarriesFrame tol (pt.take 267) F := by
  obtain ⟨all, bits1, bits2⟩ := h
  refine ⟨fun d hd => (matchesAt_take hd (by omega)).2 (all d hd), fun i j => (bitAt_take ?_ _).2 (bits1 i j),
    fun i j => (bitAt_take ?_ _).2 (bits2 i j)⟩ <;> unfold bitNo <;> omega

theorem FirstMismatch.take {tol : Tol} {pt : List Pulse} {d : Dpc} (h : FirstMismatch tol pt d) :
    FirstMismatch tol (pt.take 267) d := by
  obtain ⟨hd, mismatch, before⟩ := h
  exact ⟨hd, fun matched => mismatch ((matchesAt_take hd (by omega)).1 matched),
    fun d' hd' lt => (matchesAt_take hd' (by omega)).2 (before d' hd' lt)⟩

/-- DECODE's computation reads no pulse after the final mark (R202). -/
theorem decodeTrain_take (tol : Tol) (pt : List Pulse) : decodeTrain tol (pt.take 267) = decodeTrain tol pt := by
  rcases answersGrammar_decodeTrain tol pt with ⟨F, carries, e⟩ | ⟨d, mismatch, e⟩
  · rw [e, decodeTrain_of_carriesFrame carries.take]
  · rw [e, decodeTrain_of_firstMismatch mismatch.take]

/-! ## An encoded train -/

theorem pairAt_of_pulses {tol : Tol} {pt : List Pulse} {k m s : Nat} (tl1 : TL1 tol)
    (hm : pt[k]? = some ⟨.mark, m⟩) (hs : pt[k + 1]? = some ⟨.space, s⟩) (m_mem : m ∈ Config.durations)
    (s_mem : s ∈ Config.durations) : PairAt tol pt k m s :=
  ⟨pulseMatches_iff.2 ⟨_, hm, rfl, tl1 _ m m_mem⟩, pulseMatches_iff.2 ⟨_, hs, rfl, tl1 _ s s_mem⟩⟩

/-- An emitted bit reads as itself: TL2 keeps a 0 symbol from being taken for a 1 (R9, R197). -/
theorem bitAt_of_emitBit {tol : Tol} {pt : List Pulse} {k : Nat} {b : Bool} (tl1 : TL1 tol) (tl2 : TL2 tol)
    (hm : pt[k]? = (emitBit b)[0]?) (hs : pt[k + 1]? = (emitBit b)[1]?) : BitAt tol pt k b := by
  cases b with
  | true => exact pairAt_of_pulses tl1 hm hs (by decide) (by decide)
  | false =>
    exact ⟨not_pairAt_of_space (pulseMatches_eq_false hs (.inr tl2)),
      pairAt_of_pulses tl1 hm hs (by decide) (by decide)⟩

theorem bitAt_encodeTrain_section1 {tol : Tol} (tl1 : TL1 tol) (tl2 : TL2 tol) (F : Frame) (i j : Fin 8) :
    BitAt tol (encodeTrain F) (2 + 2 * bitNo i j) ((section1 F)[i].getLsbD j) := by
  have pulse : ∀ k < 2, (encodeTrain F)[2 + 2 * bitNo i j + k]? = (emitBit ((section1 F)[i].getLsbD j))[k]? := by
    intro k hk
    rw [Nat.add_assoc, encodeTrain_getElem?_section1 F (by unfold bitNo; omega), emitBits_getElem? _ _ _ hk]
  exact bitAt_of_emitBit tl1 tl2 (pulse 0 (by decide)) (pulse 1 (by decide))

theorem bitAt_encodeTrain_section2 {tol : Tol} (tl1 : TL1 tol) (tl2 : TL2 tol) (F : Frame) (i j : Fin 8) :
    BitAt tol (encodeTrain F) (136 + 2 * bitNo i j) ((section2 F)[i].getLsbD j) := by
  have pulse : ∀ k < 2, (encodeTrain F)[136 + 2 * bitNo i j + k]? = (emitBit ((section2 F)[i].getLsbD j))[k]? := by
    intro k hk
    rw [Nat.add_assoc, encodeTrain_getElem?_section2 F (by unfold bitNo; omega), emitBits_getElem? _ _ _ hk]
  exact bitAt_of_emitBit tl1 tl2 (pulse 0 (by decide)) (pulse 1 (by decide))

/-- A train carries its frame, for every tolerance with TL1 and TL2. -/
theorem carriesFrame_encodeTrain {tol : Tol} (tl1 : TL1 tol) (tl2 : TL2 tol) (F : Frame) :
    CarriesFrame tol (encodeTrain F) F := by
  have gap (k : Nat) (hk : k < 6) := encodeTrain_getElem?_gap F hk
  have ending := encodeTrain_getElem?_end F
  refine ⟨fun d hd => ?_, bitAt_encodeTrain_section1 tl1 tl2 F, bitAt_encodeTrain_section2 tl1 tl2 F⟩
  have lt := hd.1
  obtain ⟨⟨e, he⟩, i, j⟩ := d
  interval_cases e
  · exact pairAt_of_pulses tl1 rfl rfl (by decide) (by decide)
  · exact ⟨_, bitAt_encodeTrain_section1 tl1 tl2 F i j⟩
  · exact pairAt_of_pulses tl1 (gap 0 (by decide)) (gap 1 (by decide)) (by decide) (by decide)
  · exact pairAt_of_pulses tl1 (gap 2 (by decide)) (gap 3 (by decide)) (by decide) (by decide)
  · exact pairAt_of_pulses tl1 (gap 4 (by decide)) (gap 5 (by decide)) (by decide) (by decide)
  · exact ⟨_, bitAt_encodeTrain_section2 tl1 tl2 F i j⟩
  · exact pairAt_of_pulses tl1 (ending 0) (ending 1) (by decide) (by decide)
  · exact pulseMatches_iff.2 ⟨_, ending 2, rfl, tl1 _ _ (by decide)⟩

/-- A train cut behind section 1's footer has its first mismatch at the marker. -/
theorem firstMismatch_take_section1 {tol : Tol} (tl1 : TL1 tol) (tl2 : TL2 tol) (F : Frame) :
    FirstMismatch tol ((encodeTrain F).take 132) ⟨3, 0, 0⟩ := by
  refine ⟨isCheck_start (by decide), not_pairAt_of_mark (pulseMatches_past _ _ (List.length_take_le 132 _)),
    fun d hd lt => (matchesAt_take hd ?_).2 ((carriesFrame_encodeTrain tl1 tl2 F).1 d hd)⟩
  have even := hd.posCur_even
  have lt : posCur d < 132 := lt
  omega

theorem firstMismatch_nil (tol : Tol) : FirstMismatch tol [] ⟨0, 0, 0⟩ :=
  ⟨isCheck_start (by decide), not_pairAt_of_mark (pulseMatches_past _ _ (le_refl 0)), matchesBefore_zero tol []⟩

/-! ## How DECODE ends -/

theorem completes_decode {s : State} {F : Frame} (h : CarriesFrame (tolMatch s.tol) s.inp.ptIn F) :
    Completes .decode s (.frame F) ∧ ∃ t, exec .decode s = .next t ∧ t.publish = false := by
  have ends := exec_decode_ok (decodeTrain_of_carriesFrame h)
  exact ⟨⟨_, ends, rfl, rfl, rfl⟩, _, ends, rfl⟩

theorem rejects_decode {s : State} {d : Dpc} (h : FirstMismatch (tolMatch s.tol) s.inp.ptIn d) :
    Rejects .decode s (.pulse d (posCur d)) :=
  rejects_of_exec_rejectAt (exec_decode_error (decodeTrain_of_firstMismatch h)) rfl

/-! ## The obligations -/

/-- Settles O48: DECODE's two answers, for any capture, for an empty one, for a train and for a train cut short; the
frame of a train need not be valid. -/
theorem decodeFollowsGrammar : Obligations.DecodeFollowsGrammar := by
  refine ⟨rfl, fun s F => completes_decode, fun s d => rejects_decode, fun s => ?_, fun s empty => ?_,
    fun s F tl1 tl2 => ⟨?_, ?_, ?_⟩⟩
  · rcases answersGrammar_decodeTrain (tolMatch s.tol) s.inp.ptIn with ⟨F, carries, -⟩ | ⟨d, mismatch, -⟩
    · exact .inl ⟨F, carries⟩
    · exact .inr ⟨d, mismatch⟩
  · exact rejects_decode (empty ▸ firstMismatch_nil _)
  · exact (completes_decode (s := s.withTrain (encodeTrain F)) (carriesFrame_encodeTrain tl1 tl2 F)).1
  · exact rejects_decode (s := s.withTrain ((encodeTrain F).take 132)) (firstMismatch_take_section1 tl1 tl2 F)
  · rintro rfl
    exact rejects_validate_iff.2 validateFrame_zeros

/-- Settles O49: DECODE ends as its computation answers, which is the same on the first 267 pulses (R202). -/
theorem trailingPulsesIgnored : Obligations.TrailingPulsesIgnored := by
  intro s
  have same := decodeTrain_take (tolMatch s.tol) s.inp.ptIn
  cases h : decodeTrain (tolMatch s.tol) s.inp.ptIn with
  | ok Fc => exact ⟨_, _, exec_decode_ok h, exec_decode_ok (s := s.withTrain _) (same.trans h), rfl, rfl, rfl, rfl⟩
  | error e =>
    exact ⟨_, _, exec_decode_error h, exec_decode_error (s := s.withTrain _) (same.trans h), rfl, rfl, rfl, rfl⟩

end Sys2Proof.Machine
end

section
/-!
PROOFS. The outcome of every operation as a function of the ports (60_exceptions.md R240-R242): its STATUS is the answer
of its checks where it has any, and otherwise OK or FAULT(BAD_OPERAND) by the operands' domain. Both tables are read off
from that, from what an ending leaves, and from what each check answers.
-/

namespace Sys2Proof.Machine

/-! ## What a raised outcome leaves (R241, R242) -/

/-- The state after an operation is that of an ending that fits it. -/
theorem exists_ending_of_exec {i : Instr} {s t : State} (h : exec i s = .next t) :
    ∃ g : Ending, g.Fits (.ok i) ∧ t = g.after s := by
  obtain ⟨g, fits, ends⟩ := exec_ends i s.inp s.tol
  exact ⟨g, fits, Host.Outcome.next.inj (h.symm.trans (ends s rfl rfl))⟩

theorem Ending.sameInputs_after (g : Ending) (s : State) : SameInputs s (g.after s) := by
  cases g <;> exact ⟨rfl, rfl, rfl⟩

/-- An outcome other than OK leaves no result and PUBLISH down (R13). -/
theorem Ending.after_raised {g : Ending} {s : State} (raised : (g.after s).status ≠ .ok) :
    (g.after s).result = .absent ∧ (g.after s).publish = false := by
  cases g with
  | completed fb ptOut cur dpc r => exact absurd rfl raised
  | published fb r => exact absurd rfl raised
  | rejected cur dpc e => exact ⟨rfl, rfl⟩
  | faulted r => exact ⟨rfl, rfl⟩

/-- What a REJECT leaves (R241). -/
theorem exec_reject_leaves {i : Instr} {s t : State} {e : Reject} (h : exec i s = .next t)
    (rejected : t.status = .reject e) :
    t.result = .absent ∧ t.publish = false ∧ t.faulted = s.faulted ∧ SameInputs s t := by
  obtain ⟨g, -, rfl⟩ := exists_ending_of_exec h
  obtain ⟨result, publish⟩ := Ending.after_raised (g := g) (s := s) (by simp [rejected])
  have faulted : (g.after s).faulted = s.faulted := by rw [g.after_faulted, rejected]; exact Bool.or_false _
  exact ⟨result, publish, faulted, g.sameInputs_after s⟩

/-- What a FAULT leaves (R43, R242). -/
theorem step_fault_leaves {s t : State} (h : step s = .next t) (fault : t.status.isFault = true) :
    t.faulted = true ∧ t.result = .absent := by
  obtain ⟨g, -, rfl⟩ := exists_ending_of_step h
  have raised : (g.after s).status ≠ .ok := fun ok => by simp [ok, Status.isFault] at fault
  exact ⟨by rw [g.after_faulted, fault, Bool.or_true], (Ending.after_raised raised).1⟩

/-! ## STATUS after an operation, from the ports alone -/

/-- The outcome of a computation that gives a value or a reject. -/
def answerStatus {α : Type} : Except Reject α → Status
  | .ok _ => .ok
  | .error e => .reject e

theorem answerStatus_eq_ok {α : Type} {r : Except Reject α} (h : answerStatus r = .ok) : ∃ v, r = .ok v := by
  cases r with
  | ok v => exact ⟨v, rfl⟩
  | error e => cases h

theorem answerStatus_eq_reject {α : Type} {r : Except Reject α} {e : Reject} (h : answerStatus r = .reject e) :
    r = .error e := by
  cases r with
  | ok v => cases h
  | error e' => cases h; rfl

theorem answerStatus_ne_fault {α : Type} (r : Except Reject α) (f : FaultReason) : answerStatus r ≠ .fault f := by
  cases r <;> nofun

/-- The outcome of an operation that cannot reject, by whether its operands lie in their domain. -/
def domainStatus (w : Bool) : Status := if w = true then .ok else .fault .badOperand

theorem domainStatus_ne_reject (w : Bool) (e : Reject) : domainStatus w ≠ .reject e := by
  cases w <;> nofun

theorem domainStatus_eq_fault_iff {w : Bool} {f : FaultReason} :
    domainStatus w = .fault f ↔ f = .badOperand ∧ w = false := by
  cases w <;> simp [domainStatus, eq_comm]

/-- STATUS after operation `i`: the answer of the five operations that can reject, and by the operands' domain for the
others (R241, R242). -/
def statusOf (i : Instr) (x : Inputs) (tol : Tol) : Status :=
  match i with
  | .parse | .validate => answerStatus (validateFrame x.frame)
  | .decode => answerStatus (decodeTrain tol x.ptIn)
  | .decodeBit => answerStatus (readBit tol x.ptIn ⟨0, 0, 0⟩ x.cur)
  | .consumeBits => answerStatus (consumeBits tol x.ptIn 0 x.cur)
  | i => domainStatus (x.wf i)

/-- A guarded operation whose rest completes faults exactly outside its operand's domain `w`. -/
theorem State.guardOperand_status {s : State} {α : Type} {o : Option α} {k : α → State} {w : Bool}
    (ho : o.isSome = w) (hk : ∀ a, (k a).status = .ok) :
    (s.guardOperand o k).status = domainStatus w := by
  subst ho
  cases o with
  | none => rfl
  | some a => exact hk a

/-- Every operation ends with the status that its ports give, by its equations in Laws/Exec.lean. -/
theorem exec_status (i : Instr) (s : State) :
    ∃ t, exec i s = .next t ∧ t.status = statusOf i s.inp (tolMatch s.tol) := by
  cases i with
  | build => exact ⟨_, rfl, State.guardOperand_status (thermoOf_isSome _) fun _ => rfl⟩
  | bcdEnc => exact ⟨_, rfl, State.guardOperand_status (bcdOperand_isSome _) fun _ => rfl⟩
  | modeEnc => exact ⟨_, rfl, State.guardOperand_status (modeOf_isSome _) fun _ => rfl⟩
  | tempcEnc => exact ⟨_, rfl, State.guardOperand_status (tempOf_isSome _) fun _ => rfl⟩
  | tempfEnc => exact ⟨_, rfl, State.guardOperand_status (tempOf_isSome _) fun _ => rfl⟩
  | presetEnc => exact ⟨_, rfl, State.guardOperand_status (presetOf_isSome _) fun _ => rfl⟩
  | parse =>
    cases h : validateFrame s.inp.frame with
    | ok _ => exact ⟨_, exec_parse_ok h, congrArg answerStatus h.symm⟩
    | error e => exact ⟨_, exec_parse_error h, congrArg answerStatus h.symm⟩
  | validate =>
    cases h : validateFrame s.inp.frame with
    | ok _ => exact ⟨_, exec_validate_ok h, congrArg answerStatus h.symm⟩
    | error e => exact ⟨_, exec_validate_error h, congrArg answerStatus h.symm⟩
  | decode =>
    cases h : decodeTrain (tolMatch s.tol) s.inp.ptIn with
    | ok Fc => exact ⟨_, exec_decode_ok h, congrArg answerStatus h.symm⟩
    | error e => exact ⟨_, exec_decode_error h, congrArg answerStatus h.symm⟩
  | decodeBit =>
    cases h : readBit (tolMatch s.tol) s.inp.ptIn ⟨0, 0, 0⟩ s.inp.cur with
    | ok bc => exact ⟨_, exec_decodeBit_ok h, congrArg answerStatus h.symm⟩
    | error e => exact ⟨_, exec_decodeBit_error h, congrArg answerStatus h.symm⟩
  | consumeBits =>
    cases h : consumeBits (tolMatch s.tol) s.inp.ptIn 0 s.inp.cur with
    | ok Bc => exact ⟨_, exec_consumeBits_ok h, congrArg answerStatus h.symm⟩
    | error e => exact ⟨_, exec_consumeBits_error h, congrArg answerStatus h.symm⟩
  | _ => exact ⟨_, rfl, rfl⟩

theorem status_of_exec {i : Instr} {s t : State} (h : exec i s = .next t) :
    t.status = statusOf i s.inp (tolMatch s.tol) := by
  obtain ⟨t', ht', status⟩ := exec_status i s
  obtain rfl := Host.Outcome.next.inj (ht'.symm.trans h)
  exact status

/-- Only the five operations with checks reject, and with the reject of their checks (R241). -/
theorem statusOf_reject {i : Instr} {x : Inputs} {tol : Tol} {e : Reject} (h : statusOf i x tol = .reject e) :
    ((i = .validate ∨ i = .parse) ∧ validateFrame x.frame = .error e) ∨
    (i = .decode ∧ decodeTrain tol x.ptIn = .error e) ∨
    (i = .decodeBit ∧ readBit tol x.ptIn ⟨0, 0, 0⟩ x.cur = .error e) ∨
    (i = .consumeBits ∧ consumeBits tol x.ptIn 0 x.cur = .error e) := by
  cases i with
  | validate => exact .inl ⟨.inl rfl, answerStatus_eq_reject h⟩
  | parse => exact .inl ⟨.inr rfl, answerStatus_eq_reject h⟩
  | decode => exact .inr (.inl ⟨rfl, answerStatus_eq_reject h⟩)
  | decodeBit => exact .inr (.inr (.inl ⟨rfl, answerStatus_eq_reject h⟩))
  | consumeBits => exact .inr (.inr (.inr ⟨rfl, answerStatus_eq_reject h⟩))
  | _ => exact absurd h (domainStatus_ne_reject _ _)

/-- An operation faults exactly on operands outside its domain (R242). -/
theorem statusOf_eq_fault_iff {i : Instr} {x : Inputs} {tol : Tol} {f : FaultReason} :
    statusOf i x tol = .fault f ↔ f = .badOperand ∧ x.wf i = false := by
  cases i with
  | validate | parse | decode | decodeBit | consumeBits =>
    exact iff_of_false (answerStatus_ne_fault _ _) fun ⟨_, outside⟩ => Bool.noConfusion outside
  | _ => exact domainStatus_eq_fault_iff

/-! ## What the checks answer -/

/-- The tests of a frame reject with the received and the computed value of one that failed (R153, R241). -/
theorem validateFrame_error {F : Frame} {e : Reject} (h : validateFrame F = .error e) :
    (e = .header F[0] ∧ F[0] ≠ 0x16) ∨
    (e = .cksum1 (hi4 F[7]) (cksum1 F) ∧ hi4 F[7] ≠ cksum1 F) ∨
    (e = .cksum2 (hi4 F[15]) (cksum2 F) ∧ hi4 F[15] ≠ cksum2 F) := by
  rcases validateFrame_cases F with a | ⟨h0, a⟩ | ⟨-, h1, a⟩ | ⟨-, -, h2, a⟩ <;> cases h.symm.trans a
  · exact .inl ⟨rfl, h0⟩
  · exact .inr (.inl ⟨rfl, h1⟩)
  · exact .inr (.inr ⟨rfl, h2⟩)

/-- DECODE's computation rejects at the first mismatch only (R199). -/
theorem decodeTrain_error {tol : Tol} {pt : List Pulse} {e : Reject} (h : decodeTrain tol pt = .error e) :
    ∃ d, e = .pulse d (posCur d) ∧ FirstMismatch tol pt d := by
  rcases answersGrammar_decodeTrain tol pt with ⟨F, -, a⟩ | ⟨d, mismatch, a⟩ <;> cases h.symm.trans a
  exact ⟨d, rfl, mismatch⟩

theorem carriesFrame_of_decodeTrain_ok {tol : Tol} {pt : List Pulse} {Fc : Frame × Nat}
    (h : decodeTrain tol pt = .ok Fc) : CarriesFrame tol pt Fc.1 := by
  rcases answersGrammar_decodeTrain tol pt with ⟨F, carries, a⟩ | ⟨d, -, a⟩ <;> cases h.symm.trans a
  exact carries

/-- The read of a bit rejects where no bit stands only (R197). -/
theorem readBit_error {tol : Tol} {pt : List Pulse} {d : Dpc} {k : Nat} {e : Reject}
    (h : readBit tol pt d k = .error e) : e = .pulse d k ∧ NoBitAt tol pt k := by
  rcases bitAt_or_noBitAt tol pt k with ⟨b, bit⟩ | none
  · cases h.symm.trans (readBit_of_bitAt d bit)
  · cases h.symm.trans (readBit_of_noBitAt d none)
    exact ⟨rfl, none⟩

theorem not_noBitAt_of_readBit_ok {tol : Tol} {pt : List Pulse} {d : Dpc} {k : Nat} {bc : Bool × Nat}
    (h : readBit tol pt d k = .ok bc) : ¬ NoBitAt tol pt k := fun none => by
  cases h.symm.trans (readBit_of_noBitAt d none)

/-- The read of a section rejects at a position that reads as no bit only (R198). -/
theorem consumeBits_error {tol : Tol} {pt : List Pulse} {el : Fin 9} {c : Nat} {e : Reject}
    (h : consumeBits tol pt el c = .error e) :
    ∃ i j, e = .pulse ⟨el, i, j⟩ (c + 2 * bitNo i j) ∧ NoBitAt tol pt (c + 2 * bitNo i j) := by
  rcases section_cases tol pt c with ⟨S, bits⟩ | ⟨i, j, before, none⟩
  · cases h.symm.trans (consumeBits_of_bitAt el S c bits)
  · cases h.symm.trans (consumeBits_of_noBitAt el c i j before none)
    exact ⟨i, j, rfl, none⟩

theorem not_noBitAt_of_consumeBits_ok {tol : Tol} {pt : List Pulse} {el : Fin 9} {c : Nat} {Bc : Section8 × Nat}
    (h : consumeBits tol pt el c = .ok Bc) (i j : Fin 8) : ¬ NoBitAt tol pt (c + 2 * bitNo i j) := fun none => by
  rcases section_cases tol pt c with ⟨S, bits⟩ | ⟨i', j', before, first⟩
  · exact none.not_bitAt (bits i j)
  · cases h.symm.trans (consumeBits_of_noBitAt el c i' j' before first)

/-! ## The rejects -/

/-- Settles O13: a reject is that of the operation's checks, whose answer names the condition; an operation that ends in
OK had the answer OK from them. -/
theorem rejectTable : Obligations.RejectTable := by
  refine ⟨⟨fun _ => rfl, fun _ _ => rfl, fun _ _ => rfl, fun _ _ => rfl⟩, fun s t i e h rejected => ?_,
    fun s t i h ok => ?_⟩
  · refine ⟨exec_reject_leaves h rejected, ?_⟩
    rcases statusOf_reject ((status_of_exec h).symm.trans rejected) with
      ⟨op, answer⟩ | ⟨op, answer⟩ | ⟨op, answer⟩ | ⟨op, answer⟩
    · rcases validateFrame_error answer with ⟨rfl, failed⟩ | ⟨rfl, failed⟩ | ⟨rfl, failed⟩
      · exact ⟨op, failed, rfl⟩
      · exact ⟨op, failed, rfl, rfl⟩
      · exact ⟨op, failed, rfl, rfl⟩
    · obtain ⟨d, rfl, mismatch⟩ := decodeTrain_error answer
      exact .inl ⟨op, rfl, mismatch⟩
    · obtain ⟨rfl, none⟩ := readBit_error answer
      exact .inr (.inl ⟨op, rfl, rfl, none⟩)
    · obtain ⟨j, k, rfl, none⟩ := consumeBits_error answer
      exact .inr (.inr ⟨op, rfl, rfl, none⟩)
  · have answer := (status_of_exec h).symm.trans ok
    refine ⟨?_, ?_, ?_, ?_⟩
    · rintro (rfl | rfl)
      all_goals
        obtain ⟨_, accepts⟩ := answerStatus_eq_ok answer
        exact (validateFrame_ok_iff _).1 accepts
    · rintro rfl
      obtain ⟨_, decoded⟩ := answerStatus_eq_ok answer
      exact (carriesFrame_of_decodeTrain_ok decoded).1
    · rintro rfl
      obtain ⟨_, read⟩ := answerStatus_eq_ok answer
      exact not_noBitAt_of_readBit_ok read
    · rintro rfl
      obtain ⟨_, read⟩ := answerStatus_eq_ok answer
      exact not_noBitAt_of_consumeBits_ok read

/-! ## The faults -/

theorem encode_inj {i j : Instr} : encode i = encode j ↔ i = j := by
  have decodes (i : Instr) : decode (encode i) = .ok i := (encodingStatement i).2.1
  exact ⟨fun h => Except.ok.inj ((decodes i).symm.trans (h ▸ decodes j)), congrArg encode⟩

theorem step_of_encode {s : State} {i : Instr} (h : encode i = s.op) : step s = exec i s :=
  step_of_decode (h ▸ (encodingStatement i).2.1)

/-- The operands outside an operation's domain, where a pair on the target_c port has a positive denominator (R107,
R242). -/
theorem Inputs.wf_eq_false_iff {x : Inputs} (pairs : ∀ q, x.targetC = .pair q → 0 < q.den) (i : Instr) :
    x.wf i = false ↔
      (i = .build ∨ i = .modeEnc) ∧ 6 ≤ x.mode.toNat ∨
      (i = .build ∨ i = .presetEnc) ∧ x.preset = 3 ∨
      (i = .build ∨ i = .tempcEnc ∨ i = .tempfEnc) ∧ x.targetC = .nonFinite ∨
      i = .bcdEnc ∧ 99 < x.value := by
  have mode : x.modeWf = false ↔ 6 ≤ x.mode.toNat := by simp [Inputs.modeWf]
  have preset : x.presetWf = false ↔ x.preset = 3 := by
    unfold Inputs.presetWf
    generalize x.preset = c
    revert c; decide
  have temp : x.tempWf = false ↔ x.targetC = .nonFinite := by
    unfold Inputs.tempWf
    cases h : x.targetC with
    | pair q => simp [pairs q h]
    | nonFinite => simp
  have value : x.valueWf = false ↔ 99 < x.value := by simp [Inputs.valueWf]
  cases i with
  | build =>
    simp only [Inputs.wf, Bool.and_eq_false_iff, mode, preset, temp]
    simp [or_assoc]
  | modeEnc => simp [Inputs.wf, mode]
  | presetEnc => simp [Inputs.wf, preset]
  | tempcEnc | tempfEnc => simp [Inputs.wf, temp]
  | bcdEnc => simp [Inputs.wf, value]
  | _ => simp [Inputs.wf]

/-- Settles O14: a word of no operation faults as such, and an operation faults exactly outside its domain. -/
theorem faultTable : Obligations.FaultTable := by
  refine ⟨rfl, rfl, fun s t h => ?_⟩
  have leaves := step_fault_leaves h
  by_cases illegal : ∀ i, encode i ≠ s.op
  · have notWord (i : Instr) : s.op ≠ encode i := (illegal i).symm
    have faults := step_of_not_legalOp ((forall_encode_ne_iff _).1 illegal)
    obtain rfl := Host.Outcome.next.inj (faults.symm.trans h)
    exact ⟨iff_of_true rfl illegal, fun _ => iff_of_false nofun (by simp [notWord]), leaves⟩
  · obtain ⟨i, word⟩ : ∃ i, encode i = s.op := by simpa using illegal
    have status := status_of_exec ((step_of_encode word).symm.trans h)
    refine ⟨iff_of_false ?_ illegal, fun pairs => ?_, leaves⟩
    · rw [status, statusOf_eq_fault_iff]
      nofun
    · rw [status, statusOf_eq_fault_iff, Inputs.wf_eq_false_iff pairs, ← word]
      simp only [encode_inj, true_and]

end Sys2Proof.Machine
end

section
/-!
PROOFS. What reset leaves, and that a reset between two operations changes no result (70_reset_and_hazards.md R270).
The second is R45 in use: reset with the caller's inputs kept is one more state with the same inputs.
-/

namespace Sys2Proof.Machine

/-- Steps from two states with the same inputs end with the same STATUS, result and PUBLISH (R45). -/
theorem step_outcome_of_sameInputs {s s' : State} (same : SameInputs s s') :
    ∃ t t', step s = .next t ∧ step s' = .next t' ∧
      t'.status = t.status ∧ t'.result = t.result ∧ t'.publish = t.publish := by
  obtain ⟨op, inp, tol⟩ := same
  obtain ⟨t, t', ends, ends', equal⟩ := nothingSurvivesButFaulted s s' op.symm inp.symm tol.symm
  refine ⟨t, t', ends, ends', ?_⟩
  rw [equal]
  exact ⟨rfl, rfl, rfl⟩

/-- Settles O7: reset holds R46's values, and reset with the inputs kept is a state with the same inputs. -/
theorem resetState : Obligations.ResetState :=
  ⟨⟨Memory.read_nil, rfl, rfl, rfl, rfl, rfl, rfl⟩, fun _ => step_outcome_of_sameInputs ⟨rfl, rfl, rfl⟩⟩

end Sys2Proof.Machine
end

section
/-!
PROOFS. The machine as a whole: repeated steps, the one outcome of a step, the caller's inputs (10_state.md §6, 20_memory.md
R66, 60_exceptions.md R240), and which operation writes which space (20_memory.md §1), from which the machine's invariant
follows. A step is an ending (above); an ending with outcome OK writes FB and PT_OUT as its operation says.
-/

namespace Sys2Proof.Machine

/-! ## What every ending does -/

/-- An ending writes the same state over its own result: it reads the caller's inputs alone, and FAULTED is sticky. -/
theorem Ending.after_after (e : Ending) (s : State) : e.after (e.after s) = e.after s := by
  cases e <;> rfl

/-- Settles O9: the repeated step has the same ending, which changes nothing any more. -/
theorem stepIsIdempotent : Obligations.StepIsIdempotent := by
  intro s t h
  obtain ⟨e, -, ends⟩ := step_ends s
  obtain rfl := Host.Outcome.next.inj ((ends s ⟨rfl, rfl, rfl⟩).symm.trans h)
  rw [ends _ (e.sameInputs_after s), e.after_after]

/-- Settles O10: an ending that fits its word has a result exactly if it completes or publishes. -/
theorem oneOutcomeWithResult : Obligations.OneOutcomeWithResult := by
  intro s
  obtain ⟨e, fits, ends⟩ := step_ends s
  refine ⟨_, ends s ⟨rfl, rfl, rfl⟩, ?_⟩
  cases e with
  | completed fb ptOut cur dpc r => exact .inl ⟨rfl, fits.2⟩
  | published fb r => exact .inl ⟨rfl, fits.2⟩
  | rejected cur dpc e => exact .inr (.inl ⟨⟨e, rfl⟩, rfl⟩)
  | faulted r => exact .inr (.inr ⟨⟨r, rfl⟩, rfl⟩)

/-- Settles O16: no ending writes the caller's inputs. -/
theorem inputsStay : Obligations.InputsStay := by
  intro s t h
  obtain ⟨e, -, rfl⟩ := exists_ending_of_step h
  exact e.sameInputs_after s

/-! ## What an operation writes when it ends in OK -/

/-- A canonical buffer is that of the frame it holds. -/
theorem Memory.ofFrame_toFrame {m : Memory} (h : m.wf = true) : Memory.ofFrame m.toFrame = m :=
  Memory.ext_read (Memory.wf_ofFrame _) h fun a => by rw [Memory.read_ofFrame, Memory.toFrame_get]

/-- FB after operation `i` with outcome OK: the frame it gives, the frame it reads (log entry 5), or nothing. -/
def FbWritten (i : Instr) (s t : State) : Prop :=
  match i with
  | .build | .decode => ∃ F, t.result = .frame F ∧ t.fb = Memory.ofFrame F
  | .parse | .validate | .encode | .cksum1 | .cksum2 => t.fb = Memory.ofFrame s.inp.frame
  | _ => t.fb = []

/-- The pulses that operation `i` puts in PT_OUT (R190, R191). -/
def pulsesOf (i : Instr) (x : Inputs) : List Pulse :=
  match i with
  | .encode => encodeTrain x.frame
  | .emitBits => emitBits x.bytes
  | _ => []

/-- The operations that move the cursor (R37). -/
def movesCursor : List Instr := [.decode, .expectMark, .expectSpace, .expectPair, .decodeBit, .consumeBits]

/-- The spaces after operation `i` with outcome OK (20_memory.md §1; log entries 5 and 12). -/
structure SpacesWritten (i : Instr) (s t : State) : Prop where
  fb : FbWritten i s t
  ptOut : t.ptOut = pulsesOf i s.inp
  cur : i ∉ movesCursor → t.cur = 0
  dpc : i ≠ .decode → i ≠ .consumeBits → t.dpc = ⟨0, 0, 0⟩
  decoded : i = .decode → t.cur = 267 ∧ t.dpc = ⟨8, 0, 0⟩

/-- A guarded operation that ends in OK had an operand in its domain. -/
theorem State.exists_of_guardOperand_ok {s : State} {α : Type} {o : Option α} {k : α → State}
    (ok : (s.guardOperand o k).status = .ok) : ∃ a, o = some a := by
  cases o with
  | none => cases ok
  | some a => exact ⟨a, rfl⟩

/-- A guarded operation that only puts a result on the ports writes no space. -/
theorem SpacesWritten.of_guard {i : Instr} {s : State} {α : Type} {o : Option α} {r : α → Result}
    (plain : ∀ r, SpacesWritten i s (s.start.finish r))
    (ok : (s.start.guardOperand o fun a => s.start.finish (r a)).status = .ok) :
    SpacesWritten i s (s.start.guardOperand o fun a => s.start.finish (r a)) := by
  obtain ⟨a, rfl⟩ := State.exists_of_guardOperand_ok ok
  exact plain (r a)

/-- BUILD's writes, for a buffer as a variable: with BUILD's buffer in its place, unification would reduce the buffer's
nested writes. -/
theorem SpacesWritten.of_putFb {s t : State} {m : Memory} (h : m.wf = true)
    (ht : t = (s.start.putFb m).finish (.frame m.toFrame)) : SpacesWritten .build s t := by
  subst ht
  exact ⟨⟨_, rfl, (Memory.ofFrame_toFrame h).symm⟩, rfl, fun _ => rfl, fun _ _ => rfl, nofun⟩

/-- Every operation that ends in OK, by its equation in Laws/Exec.lean. -/
theorem spacesWritten_of_exec {i : Instr} {s t : State} (h : exec i s = .next t) (ok : t.status = .ok) :
    SpacesWritten i s t := by
  have answer := (status_of_exec h).symm.trans ok
  cases i with
  | build =>
    cases thermo : thermoOf s.inp with
    | none =>
      obtain rfl := Host.Outcome.next.inj ((exec_build_none thermo).symm.trans h)
      cases ok
    | some st =>
      rw [exec_build_some thermo] at h
      exact .of_putFb (Memory.wf_buildBuffer _ _) (Host.Outcome.next.inj h).symm
  | bcdEnc | modeEnc | tempcEnc | tempfEnc | presetEnc =>
    obtain rfl := Host.Outcome.next.inj h
    exact .of_guard (fun _ => ⟨rfl, rfl, fun _ => rfl, fun _ _ => rfl, nofun⟩) ok
  | parse =>
    obtain ⟨_, accepts⟩ := answerStatus_eq_ok answer
    obtain rfl := Host.Outcome.next.inj ((exec_parse_ok accepts).symm.trans h)
    exact ⟨rfl, rfl, fun _ => rfl, fun _ _ => rfl, nofun⟩
  | validate =>
    obtain ⟨_, accepts⟩ := answerStatus_eq_ok answer
    obtain rfl := Host.Outcome.next.inj ((exec_validate_ok accepts).symm.trans h)
    exact ⟨rfl, rfl, fun _ => rfl, fun _ _ => rfl, nofun⟩
  | cksum1 =>
    obtain rfl := Host.Outcome.next.inj ((exec_cksum1 s).symm.trans h)
    exact ⟨rfl, rfl, fun _ => rfl, fun _ _ => rfl, nofun⟩
  | cksum2 =>
    obtain rfl := Host.Outcome.next.inj ((exec_cksum2 s).symm.trans h)
    exact ⟨rfl, rfl, fun _ => rfl, fun _ _ => rfl, nofun⟩
  | encode =>
    obtain rfl := Host.Outcome.next.inj ((exec_encode s).symm.trans h)
    exact ⟨rfl, rfl, fun _ => rfl, fun _ _ => rfl, nofun⟩
  | decode =>
    obtain ⟨⟨F, c⟩, read⟩ := answerStatus_eq_ok answer
    have carries := decodeTrain_of_carriesFrame (carriesFrame_of_decodeTrain_ok read)
    obtain rfl := Host.Outcome.next.inj ((exec_decode_ok carries).symm.trans h)
    exact ⟨⟨F, rfl, rfl⟩, rfl, fun still => absurd (by decide) still, fun other => absurd rfl other, fun _ => ⟨rfl, rfl⟩⟩
  | decodeBit =>
    obtain ⟨⟨b, c⟩, read⟩ := answerStatus_eq_ok answer
    obtain rfl := Host.Outcome.next.inj ((exec_decodeBit_ok read).symm.trans h)
    exact ⟨rfl, rfl, fun still => absurd (by decide) still, fun _ _ => rfl, nofun⟩
  | consumeBits =>
    obtain ⟨⟨B, c⟩, read⟩ := answerStatus_eq_ok answer
    obtain rfl := Host.Outcome.next.inj ((exec_consumeBits_ok read).symm.trans h)
    exact ⟨rfl, rfl, fun still => absurd (by decide) still, fun _ other => absurd rfl other, nofun⟩
  | expectMark | expectSpace | expectPair =>
    obtain rfl := Host.Outcome.next.inj h
    exact ⟨rfl, rfl, fun still => absurd (by decide) still, fun _ _ => rfl, nofun⟩
  | _ =>
    obtain rfl := Host.Outcome.next.inj h
    exact ⟨rfl, rfl, fun _ => rfl, fun _ _ => rfl, nofun⟩

theorem pulsesOf_eq_nil {i : Instr} (x : Inputs) (notTrain : i ≠ .encode) (notBits : i ≠ .emitBits) :
    pulsesOf i x = [] := by
  cases i with
  | encode => contradiction
  | emitBits => contradiction
  | _ => rfl

/-- Settles O17: the spaces are those of `SpacesWritten`, and the buffer of a frame reads as the frame. -/
theorem writersOfTheSpaces : Obligations.WritersOfTheSpaces := by
  intro i s t h ok
  obtain ⟨fb, ptOut, cur, dpc, decoded⟩ := spacesWritten_of_exec h ok
  refine ⟨?_, fun notTrain notBits => ptOut.trans (pulsesOf_eq_nil _ notTrain notBits), cur, dpc, decoded⟩
  cases i with
  | build | decode =>
    obtain ⟨F, result, holds⟩ := fb
    exact ⟨F, result, fun a => holds ▸ Memory.read_ofFrame F a⟩
  | parse | validate | encode | cksum1 | cksum2 =>
    intro a
    rw [show t.fb = _ from fb, Memory.read_ofFrame]
  | _ =>
    intro a
    rw [show t.fb = _ from fb, Memory.read_nil]

/-! ## The invariant -/

theorem FbWritten.wf {i : Instr} {s t : State} (h : FbWritten i s t) : t.fb.wf = true := by
  cases i with
  | build | decode =>
    obtain ⟨F, -, holds⟩ := h
    rw [holds, Memory.wf_ofFrame]
  | parse | validate | encode | cksum1 | cksum2 => rw [show t.fb = _ from h, Memory.wf_ofFrame]
  | _ => rw [show t.fb = _ from h, Memory.wf_nil]

/-- PT_OUT takes no pulse, a section's bits or a whole train (R190, R191). -/
theorem pulsesOf_length (i : Instr) (x : Inputs) :
    (pulsesOf i x).length = 0 ∨ (pulsesOf i x).length = 128 ∨ (pulsesOf i x).length = 267 := by
  cases i with
  | encode => exact .inr (.inr (encodeTrain_length _))
  | emitBits => exact .inr (.inl (emitBits_length _))
  | _ => exact .inl rfl

/-- PARSE's result in OK is a decoded state (R154). -/
theorem exists_decoded_of_parse {s t : State} (h : exec .parse s = .next t) (ok : t.status = .ok) :
    ∃ d, t.result = .decoded d := by
  obtain ⟨_, accepts⟩ := answerStatus_eq_ok ((status_of_exec h).symm.trans ok)
  obtain rfl := Host.Outcome.next.inj ((exec_parse_ok accepts).symm.trans h)
  exact ⟨_, rfl⟩

/-- An operation that ends in OK keeps the invariant by what it writes. -/
theorem inv_of_ok {i : Instr} {s t : State} (word : decode s.op = .ok i) (h : exec i s = .next t)
    (ok : t.status = .ok) : t.Inv where
  fb_wf := (spacesWritten_of_exec h ok).fb.wf
  publish_ok up := by
    obtain ⟨isParse, -⟩ := (publishExactlyOnParse s t ((step_of_decode word).trans h)).1 up
    obtain rfl := Except.ok.inj (word.symm.trans isParse)
    exact ⟨ok, exists_decoded_of_parse h ok⟩
  raised_absent raised := absurd ok raised
  fault_sets fault := by simp [ok, Status.isFault] at fault
  ptOut_shape := by
    rw [(spacesWritten_of_exec h ok).ptOut]
    exact pulsesOf_length i s.inp

/-- An ending with another outcome than OK keeps the invariant: it discards what was begun (R13). -/
theorem Ending.inv_of_raised {e : Ending} {s : State} (raised : (e.after s).status ≠ .ok) : (e.after s).Inv := by
  cases e with
  | completed fb ptOut cur dpc r => exact absurd rfl raised
  | published fb r => exact absurd rfl raised
  | rejected cur dpc e => exact ⟨rfl, nofun, fun _ => ⟨rfl, rfl, rfl⟩, nofun, .inl rfl⟩
  | faulted r => exact ⟨rfl, nofun, fun _ => ⟨rfl, rfl, rfl⟩, fun _ => rfl, .inl rfl⟩

/-- Settles O5: by the outcome of the step; a step with outcome OK has run an operation. -/
theorem stepKeepsInvariant : Obligations.StepKeepsInvariant := by
  intro s t _ h
  by_cases ok : t.status = .ok
  · cases word : decode s.op with
    | ok i => exact inv_of_ok word ((step_of_decode word).symm.trans h) ok
    | error e =>
      obtain rfl := Host.Outcome.next.inj ((step_of_illegal word).symm.trans h)
      cases ok
  · obtain ⟨e, -, rfl⟩ := exists_ending_of_step h
    exact e.inv_of_raised ok

/-- Settles O6: reset holds R46's values, with outcome OK, PUBLISH down and both spaces empty. -/
theorem resetMeetsInvariant : Obligations.ResetMeetsInvariant :=
  ⟨rfl, nofun, fun raised => absurd rfl raised, nofun, .inl rfl⟩

end Sys2Proof.Machine
end

section
/-!
PROOFS. The word on `OP` (30_encoding.md R90-R92, R107; 10_state.md R44): the decoder is the encoder's inverse, a step runs
what the word decodes to, and the operands' codes, of which one without a meaning faults (60_exceptions.md R242).
-/

namespace Sys2Proof.Machine

/-! ## The decoder and the encoder -/

@[simp] theorem decode_encode (i : Instr) : decode (encode i) = .ok i := (encodingStatement i).2.1

/-- Settles O1: the six words are those that the encoder gives. -/
theorem wordsOfTheTable : Obligations.WordsOfTheTable :=
  ⟨decode_encode .build, decode_encode .decode, decode_encode .bcdEnc, decode_encode .cksum2, decode_encode .emitBits,
    decode_encode .consumeBits⟩

/-- A word decodes to the one operation whose word it is (R91). -/
theorem decode_eq_ok_iff {w : Byte} {i : Instr} : decode w = .ok i ↔ w = encode i := by
  constructor
  · intro h
    cases legal : legalOp w with
    | false => cases (decode_of_not_legalOp legal).symm.trans h
    | true =>
      obtain ⟨j, -, rfl⟩ := decodeGroup_of_legalOp w legal
      rw [Except.ok.inj ((decode_encode j).symm.trans h)]
  · rintro rfl
    exact decode_encode i

theorem toOption_eq_some_iff {ε α : Type} {r : Except ε α} {a : α} : r.toOption = some a ↔ r = .ok a := by
  cases r <;> simp [Except.toOption]

/-- The host's numbering of the table is that of the bytes (R108). -/
theorem decodeTableWord_eq_decode {n : Nat} (h : n < 256) :
    decodeTableWord 8 n = (decode (BitVec.ofNat 8 n)).toOption := by
  rw [decodeTableWord, show n % 2 ^ 8 = n from Nat.mod_eq_of_lt h]
  exact if_pos h

/-- Settles O2: by `decode_eq_ok_iff`, for a byte and for a number as a byte. -/
theorem decodeEncodeAgree : Obligations.DecodeEncodeAgree := by
  refine fun i => ⟨fun w => decode_eq_ok_iff, fun n h => ?_⟩
  rw [decodeTableWord_eq_decode h, toOption_eq_some_iff, decode_eq_ok_iff, ← BitVec.toNat_inj, BitVec.toNat_ofNat,
    Nat.mod_eq_of_lt h]

/-- Settles O4: the word on the port decides the operation, however it came there. -/
theorem stepRunsDecoded : Obligations.StepRunsDecoded := by
  refine ⟨fun s i => step_of_decode, fun s i => step_of_encode ?_, fun s i x => step_of_encode rfl⟩
  rw [State.withFetchWord_op, Nat.mod_eq_of_lt (encode i).isLt, BitVec.ofNat_toNat, BitVec.setWidth_eq]

/-! ## Operands with no meaning -/

/-- A thermostat state needs a meaning on each coded port (R107). -/
theorem thermoOf_eq_none {x : Inputs} (h : modeOf x.mode = none ∨ presetOf x.preset = none ∨ tempOf x.targetC = none) :
    thermoOf x = none := by
  rw [Option.eq_none_iff_forall_ne_some]
  intro st thermo
  obtain ⟨mode, -, temp, preset⟩ := thermoOf_eq_some_iff.1 thermo
  simp [mode, temp, preset] at h

theorem faults_build {s : State}
    (h : modeOf s.inp.mode = none ∨ presetOf s.inp.preset = none ∨ tempOf s.inp.targetC = none) :
    Faults .build s .badOperand :=
  faults_of_exec (exec_build_none (thermoOf_eq_none h))

/-- A value that names no rational: not finite, or over a denominator of 0 or less (log entry 9). -/
theorem tempOf_eq_none {t : TempPort} (h : t = .nonFinite ∨ ∃ q, t = .pair q ∧ q.den ≤ 0) : tempOf t = none := by
  obtain rfl | ⟨q, rfl, den⟩ := h
  · rfl
  · exact if_neg den.not_gt

/-- Settles O15: the codes are computed, and a port with no meaning faults in each operation that reads it. -/
theorem interfaceCodes : Obligations.InterfaceCodes := by
  refine ⟨rfl, rfl, rfl, rfl, rfl, modeOf_modeCode, fanOf_fanCode, presetOf_presetCode, powerOf_powerCode,
    levelOf_levelCode, fun s h => ?_, fun s h => ?_, fun s h => ?_⟩
  · have mode : modeOf s.inp.mode = none := by rcases h with h | h <;> rw [h] <;> rfl
    exact ⟨faults_build (.inl mode), faults_of_exec (exec_modeEnc_none mode)⟩
  · have preset : presetOf s.inp.preset = none := by rw [h]; rfl
    exact ⟨faults_build (.inr (.inl preset)), faults_of_exec (exec_presetEnc_none preset)⟩
  · have temp := tempOf_eq_none h
    exact ⟨faults_build (.inr (.inr temp)), faults_of_exec (exec_tempcEnc_none temp),
      faults_of_exec (exec_tempfEnc_none temp)⟩

end Sys2Proof.Machine
end

section
/-!
PROOFS. The temperature path's two inferences (41_frame_builder_parser.md §3): rounding is monotone and keeps integers, so
it commutes with a clamp between integers; and the Fahrenheit byte tells apart what the Celsius byte does not.
-/

namespace Sys2Proof.Machine

theorem roundQ_mono : Monotone roundQ := fun _ _ h => Int.floor_mono (by linarith)

theorem roundQ_intCast (n : Int) : roundQ n = n := by
  rw [roundQ, Int.floor_intCast_add, Int.floor_eq_zero_iff.2 ⟨by norm_num, by norm_num⟩, add_zero]

/-- Rounding commutes with a clamp between integers, by its monotonicity. -/
theorem roundQ_clampQ (x : ℚ) (lo hi : Int) : roundQ (clampQ x lo hi) = min hi (max lo (roundQ x)) := by
  rw [clampQ, roundQ_mono.map_min, roundQ_mono.map_max, roundQ_intCast, roundQ_intCast]

/-- Settles O25: over the rationals by `roundQ_clampQ`, and the integer forms give the same. -/
theorem clampRoundCommute : Obligations.ClampRoundCommute := by
  intro q lo hi hq h
  have rational := roundRatio_clampRatio hq h
  exact ⟨by rw [rational, roundQ_clampQ, roundRatio_eq_roundQ hq], rational⟩

/-- Settles O26: 5 and 16 degrees are both clamped to 16, and are 60 (clamped) and 61 degrees Fahrenheit. -/
theorem fahrenheitIsIndependent : Obligations.FahrenheitIsIndependent := by
  rintro ⟨f, isFunction⟩
  have celsius : tempcEnc ⟨5, 1⟩ = tempcEnc ⟨16, 1⟩ := by decide
  have fahrenheit : tempfEnc ⟨5, 1⟩ ≠ tempfEnc ⟨16, 1⟩ := by decide
  apply fahrenheit
  rw [isFunction ⟨5, 1⟩ (by decide), isFunction ⟨16, 1⟩ (by decide), celsius]

end Sys2Proof.Machine
end

section
/-!
PROOFS. PARSE of a built frame, the power nibble, and single-bit errors (41_frame_builder_parser.md §8, the spec's own
inferences from R146-R154). A checksum's test compares a sum of nibbles mod 16 with a nibble of its own check byte; any
one bit among the bytes it covers changes the difference of the two.
-/

namespace Sys2Proof.Machine

/-! ## What PARSE decodes -/

/-- A packed temperature reads back as the rounded, clamped value (R131, R140). -/
theorem bcdDec_tempcEnc {q : Ratio} (hq : 0 < q.den) :
    bcdDec (tempcEnc q) = (roundQ (clampQ (ratOf q) 16 30)).toNat := by
  have range := celsius_mem (ratOf q)
  rw [tempcEnc_eq_packed hq, ← bcdEnc_eq_packed (by omega), bcdDec_bcdEnc (by omega)]

/-- The decoded state that is to come back from a thermostat state: the temperature clamped and rounded. -/
def decodedOf (st : Thermo) : Decoded where
  power := if st.mode = .off then .off else .on
  mode := st.mode
  fan := st.fan
  targetC := (roundQ (clampQ (ratOf st.targetC) 16 30)).toNat
  preset := st.preset

/-- The power nibble governs the mode, so OFF comes back although its mode nibble is cool's (R96, R154). -/
theorem decodeState_builtFrame {st : Thermo} (tm : Option Clock) (hq : 0 < st.targetC.den) :
    decodeState (builtFrame st tm) = decodedOf st := by
  have off : lo4 (powerEnc (powerOfMode st.mode)) = 12#4 ↔ st.mode = .off := by cases st.mode <;> decide
  have mode : (if st.mode = .off then .off else modeDec (modeEnc st.mode)) = st.mode := by cases st.mode <;> rfl
  have bytes := builtFrame_eq st tm
  generalize builtFrame st tm = F at bytes
  generalize cksum1 F = c1, cksum2 F = c2 at bytes
  subst bytes
  rw [decodeState_eq, decodedOf]
  simp [off, mode, bcdDec_tempcEnc hq]

/-- PARSE completes on BUILD's frame, on the port of any state, with the thermostat state. -/
theorem completes_parse_builtFrame {s : State} {st : Thermo} {tm : Option Clock} (hq : 0 < st.targetC.den)
    (h : s.inp.frame = builtFrame st tm) : Completes .parse s (.decoded (decodedOf st)) := by
  rw [← decodeState_builtFrame tm hq, ← h]
  exact completes_parse (by rw [h]; exact validateFrame_builtFrame st tm)

theorem thermoOf_den_pos {x : Inputs} {st : Thermo} (h : thermoOf x = some st) : 0 < st.targetC.den := by
  obtain ⟨-, -, temp, -⟩ := thermoOf_eq_some_iff.1 h
  exact tempOf_den_pos temp

/-- Settles O36: the frame BUILD completes with is that of the thermostat state on its ports. -/
theorem buildThenParse : Obligations.BuildThenParse := by
  intro s st F thermo built
  obtain ⟨st', thermo', rfl⟩ := completes_build_iff.1 built
  obtain rfl := Option.some.inj (thermo.symm.trans thermo')
  exact ⟨completes_validate_iff.2 (validateFrame_builtFrame _ _),
    completes_parse_builtFrame (thermoOf_den_pos thermo) rfl⟩

/-- Settles O37: with the power nibble of OFF the mode nibble is not read. -/
theorem powerGovernsMode : Obligations.PowerGovernsMode := by
  intro s valid off
  refine ⟨_, completes_parse (completes_validate_iff.1 valid), ?_⟩
  rw [decodeState_eq]
  exact ⟨if_pos off, if_pos off⟩

/-! ## One bit of a frame flipped -/

/-- A byte with bit `k` flipped. -/
def flipByte (b : Byte) (k : Fin 8) : Byte := b ^^^ (1 <<< k.val)

theorem flipBit_getElem_same (F : Frame) (a : Fin 16) (k : Fin 8) : (flipBit F a k)[a] = flipByte F[a] k := by
  simp [flipBit, flipByte]

theorem flipBit_getElem_ne {a b : Fin 16} (h : b ≠ a) (F : Frame) (k : Fin 8) : (flipBit F a k)[b] = F[b] := by
  have : a.val ≠ b.val := fun eq => h (Fin.ext eq.symm)
  simp [flipBit, Vector.getElem_set_ne, this]

theorem flipByte_ne (b : Byte) (k : Fin 8) : flipByte b k ≠ b := by
  revert k b; decide

/-- A flipped bit changes the sum of a byte's nibbles by 1, 2, 4 or 8 (R146). -/
theorem nibs_flipByte (k : Fin 8) (b : Byte) : nibs (flipByte b k) % 16 ≠ nibs b % 16 := by
  revert k b; decide

/-- A flipped bit of a check byte changes the difference of its nibbles. -/
theorem checkByte_flipByte (k : Fin 8) (b : Byte) :
    (15 * ((flipByte b k).toNat / 16) + (flipByte b k).toNat % 16) % 16 ≠
      (15 * (b.toNat / 16) + b.toNat % 16) % 16 := by
  revert k b; decide

/-- The test of a check byte as one sum mod 16: the nibble it holds, taken off the nibbles that are summed (R146, R149). -/
theorem hi4_eq_nibsum_iff (F : Frame) (is : List (Fin 16)) (c : Fin 16) : hi4 F[c] = nibsum F is c ↔
    ((is.map fun i => nibs F[i]).sum + (15 * (F[c].toNat / 16) + F[c].toNat % 16)) % 16 = 0 := by
  have small : F[c].toNat / 16 < 16 := by omega
  rw [← BitVec.toNat_inj, toNat_nibsum, toNat_hi4]
  omega

/-- The nibble sum of a range with one of its bytes flipped. -/
theorem sum_nibs_flipBit (F : Frame) {is : List (Fin 16)} (nodup : is.Nodup) {a : Fin 16} (ha : a ∈ is) (k : Fin 8) :
    (is.map fun i => nibs (flipBit F a k)[i]).sum + nibs F[a] =
      (is.map fun i => nibs F[i]).sum + nibs (flipByte F[a] k) := by
  have others : (is.erase a).map (fun i => nibs (flipBit F a k)[i]) = (is.erase a).map fun i => nibs F[i] :=
    List.map_congr_left fun i hi => by rw [flipBit_getElem_ne (nodup.mem_erase_iff.1 hi).1]
  rw [← List.sum_map_erase _ ha, ← List.sum_map_erase (fun i => nibs F[i]) ha, others, flipBit_getElem_same]
  omega

/-- A bit flipped in a summed byte or in the check byte fails the test of the check byte. -/
theorem hi4_flipBit_ne_nibsum {F : Frame} {is : List (Fin 16)} {c a : Fin 16} (nodup : (c :: is).Nodup)
    (ha : a ∈ c :: is) (k : Fin 8) (passed : hi4 F[c] = nibsum F is c) :
    hi4 (flipBit F a k)[c] ≠ nibsum (flipBit F a k) is c := by
  obtain ⟨notMem, nodup⟩ := List.nodup_cons.1 nodup
  rw [Ne, hi4_eq_nibsum_iff]
  rw [hi4_eq_nibsum_iff] at passed
  rcases List.mem_cons.1 ha with rfl | ha
  · have sum : is.map (fun i => nibs (flipBit F a k)[i]) = is.map fun i => nibs F[i] :=
      List.map_congr_left fun i hi => by rw [flipBit_getElem_ne (ne_of_mem_of_not_mem hi notMem)]
    have changed := checkByte_flipByte k F[a]
    rw [sum, flipBit_getElem_same]
    omega
  · have sum := sum_nibs_flipBit F nodup ha k
    have changed := nibs_flipByte k F[a]
    rw [flipBit_getElem_ne (ne_of_mem_of_not_mem ha notMem).symm]
    omega

/-- Settles O35: the flipped bit fails the test that covers its byte, and the tests before that one read other bytes. -/
theorem singleBitErrorsRejected : Obligations.SingleBitErrorsRejected := by
  intro s a k valid
  obtain ⟨h0, h1, h2⟩ := (validateFrame_ok_iff _).1 (completes_validate_iff.1 valid)
  have same : ∀ b : Fin 16, b ≠ a → (flipBit s.inp.frame a k)[b] = s.inp.frame[b] := fun b hb => flipBit_getElem_ne hb _ k
  refine ⟨fun ha => ?_, fun ge le => ?_, fun ge => ?_⟩
  · obtain rfl : a = 0 := Fin.ext ha
    refine ⟨_, rejects_validate_iff.2 (validateFrame_header fun header => ?_)⟩
    exact flipByte_ne s.inp.frame[0] k ((flipBit_getElem_same _ 0 k).symm.trans (header.trans h0.symm))
  · have covered : ∀ b : Fin 16, 1 ≤ b.val → b.val ≤ 7 → b ∈ ([7, 0, 1, 2, 3, 4, 5, 6] : List (Fin 16)) := by decide
    exact ⟨_, _, rejects_validate_iff.2 (validateFrame_cksum1 ((same 0 (by omega)).trans h0)
      (hi4_flipBit_ne_nibsum (by decide) (covered a ge le) k h1))⟩
  · have covered : ∀ b : Fin 16, 8 ≤ b.val → b ∈ ([15, 8, 9, 10, 11, 12, 13, 14] : List (Fin 16)) := by decide
    have sum1 : cksum1 (flipBit s.inp.frame a k) = cksum1 s.inp.frame :=
      cksum1_congr (fun b hb => same b (by omega)) (congrArg lo4 (same 7 (by omega)))
    exact ⟨_, _, rejects_validate_iff.2 (validateFrame_cksum2 ((same 0 (by omega)).trans h0)
      ((congrArg hi4 (same 7 (by omega))).trans (h1.trans sum1.symm))
      (hi4_flipBit_ne_nibsum (by decide) (covered a ge) k h2))⟩

end Sys2Proof.Machine
end

section
/-!
PROOFS. The shape and the airtime of an encoded train (42_pulse_codec.md §1, the spec's own inferences from R190 and R191).
Each stretch of a train has its levels and its marks from the grammar alone; the data spaces carry the frame's bits, 600
microseconds more for a 1 than for a 0.
-/

namespace Sys2Proof.Machine

theorem completes_encode (s : State) : Completes .encode s (.train (encodeTrain s.inp.frame) 38000) :=
  ⟨_, exec_encode s, rfl, rfl, rfl⟩

/-- ENCODE completes with the train of its frame operand only (R191). -/
theorem eq_of_completes_encode {s : State} {p : List Pulse} {c : Nat} (h : Completes .encode s (.train p c)) :
    p = encodeTrain s.inp.frame := by
  obtain ⟨t, ht, -, result, -⟩ := h
  obtain rfl := Host.Outcome.next.inj ((exec_encode s).symm.trans ht)
  exact (Result.train.inj result).1.symm

/-! ## The shape of a train -/

/-- The levels of `n` pairs of a mark and a space. -/
def pairLevels : Nat → List Level
  | 0 => []
  | n + 1 => .mark :: .space :: pairLevels n

theorem pairLevels_add (m n : Nat) : pairLevels (m + n) = pairLevels m ++ pairLevels n := by
  induction m with
  | zero => simp [pairLevels]
  | succ m ih => rw [Nat.succ_add, pairLevels, ih]; rfl

theorem pairLevels_getElem? {n k : Nat} (hk : k < 2 * n) :
    (pairLevels n)[k]? = some (if k % 2 = 0 then .mark else .space) := by
  induction n generalizing k with
  | zero => omega
  | succ n ih =>
    match k with
    | 0 => rfl
    | 1 => rfl
    | k + 2 => simpa [pairLevels] using ih (by omega)

theorem pairLevels_length (n : Nat) : (pairLevels n).length = 2 * n := by
  induction n with
  | zero => rfl
  | succ n ih => rw [pairLevels, List.length_cons, List.length_cons, ih]; omega

theorem pairLevels_count (n : Nat) (l : Level) : ((pairLevels n).filter fun m => decide (m = l)).length = n := by
  induction n with
  | zero => rfl
  | succ n ih => cases l <;> simp [pairLevels, ih]

theorem levels_emitBits (B : Section8) : (emitBits B).map Pulse.level = pairLevels 64 := by
  have byte (b : Byte) : (emitByte b).map Pulse.level = pairLevels 8 := rfl
  simp only [emitBits, List.map_flatMap, byte]
  rfl

/-- The levels of every train: 133 pairs and the final mark (R192). -/
theorem levels_encodeTrain (F : Frame) : (encodeTrain F).map Pulse.level = pairLevels 133 ++ [.mark] := by
  have stretches : pairLevels 133 =
      pairLevels 1 ++ pairLevels 64 ++ pairLevels 3 ++ pairLevels 64 ++ pairLevels 1 := by
    simp only [← pairLevels_add]
  rw [stretches, encodeTrain_eq]
  simp only [List.map_append, levels_emitBits, List.append_assoc]
  rfl

theorem exists_encodeTrain_getElem? (F : Frame) {k : Nat} (hk : k < 267) :
    ∃ d, (encodeTrain F)[k]? = some ⟨if k % 2 = 0 then .mark else .space, d⟩ := by
  have level : ((encodeTrain F).map Pulse.level)[k]? = some (if k % 2 = 0 then .mark else .space) := by
    rw [levels_encodeTrain]
    rcases Nat.lt_or_ge k 266 with pair | ge
    · rw [List.getElem?_append_left (by rw [pairLevels_length]; omega), pairLevels_getElem? (by omega)]
    · obtain rfl : k = 266 := by omega
      rw [List.getElem?_append_right (by rw [pairLevels_length]), pairLevels_length]
      rfl
  rw [List.getElem?_map, Option.map_eq_some_iff] at level
  obtain ⟨⟨l, d⟩, pulse, rfl⟩ := level
  exact ⟨d, pulse⟩

/-- A train has 133 pulses of each level, and the final mark. -/
theorem length_filter_level (F : Frame) (l : Level) :
    ((encodeTrain F).filter fun q => decide (q.level = l)).length = 133 + (if l = .mark then 1 else 0) := by
  have onLevels : ((encodeTrain F).filter fun q => decide (q.level = l)).length =
      (((encodeTrain F).map Pulse.level).filter fun m => decide (m = l)).length := by
    rw [List.filter_map, List.length_map]
    rfl
  rw [onLevels, levels_encodeTrain, List.filter_append, List.length_append, pairLevels_count]
  cases l <;> rfl

/-- The pulses at even indexes of a section are the bits' marks (R190). -/
theorem emitBits_getElem?_even (B : Section8) {k : Nat} (hk : k < 128) (even : k % 2 = 0) :
    (emitBits B)[k]? = some ⟨.mark, 340⟩ := by
  have place : k = 2 * bitNo ⟨k / 16, by omega⟩ ⟨k / 2 % 8, by omega⟩ + 0 := by unfold bitNo; simp only; omega
  rw [place, emitBits_getElem? B _ _ (by decide), emitBit_mark]

/-- Two trains agree outside the spaces that carry the data bits, stretch by stretch (R104). -/
theorem encodeTrain_getElem?_congr (F G : Frame) {k : Nat}
    (notData : ¬ (k % 2 = 1 ∧ (3 ≤ k ∧ k ≤ 129 ∨ 137 ≤ k ∧ k ≤ 263))) : (encodeTrain F)[k]? = (encodeTrain G)[k]? := by
  rcases Nat.lt_or_ge k 2 with header | ge
  · interval_cases k <;> rfl
  rcases Nat.lt_or_ge k 130 with section1 | ge
  · obtain ⟨j, rfl⟩ := Nat.exists_eq_add_of_le ge
    rw [encodeTrain_getElem?_section1 F (by omega), encodeTrain_getElem?_section1 G (by omega),
      emitBits_getElem?_even _ (by omega) (by omega), emitBits_getElem?_even _ (by omega) (by omega)]
  rcases Nat.lt_or_ge k 136 with gap | ge
  · obtain ⟨j, rfl⟩ := Nat.exists_eq_add_of_le ge
    rw [encodeTrain_getElem?_gap F (by omega), encodeTrain_getElem?_gap G (by omega)]
  rcases Nat.lt_or_ge k 264 with section2 | ge
  · obtain ⟨j, rfl⟩ := Nat.exists_eq_add_of_le ge
    rw [encodeTrain_getElem?_section2 F (by omega), encodeTrain_getElem?_section2 G (by omega),
      emitBits_getElem?_even _ (by omega) (by omega), emitBits_getElem?_even _ (by omega) (by omega)]
  · obtain ⟨j, rfl⟩ := Nat.exists_eq_add_of_le ge
    rw [encodeTrain_getElem?_end, encodeTrain_getElem?_end]

/-- Settles O41: ENCODE completes with its operand's train only, whose levels and fixed pulses do not name the frame. -/
theorem trainShape : Obligations.TrainShape := by
  intro s p c h
  obtain rfl := eq_of_completes_encode h
  refine ⟨encodeTrain_length _, fun k hk => exists_encodeTrain_getElem? _ hk, length_filter_level _ .mark,
    length_filter_level _ .space, fun s' p' c' k h' notData => ?_⟩
  obtain rfl := eq_of_completes_encode h'
  exact encodeTrain_getElem?_congr _ _ notData

/-! ## The airtime of a train -/

/-- The number of 1 bits of a byte. -/
def onesOfByte (b : Byte) : Nat := (idx8.filter fun j => b.getLsbD j.val).length

theorem onesOfByte_le (b : Byte) : onesOfByte b ≤ 8 := List.length_filter_le _ idx8

/-- Eight bits of 740 microseconds, and 600 more for each 1 (R103). -/
theorem sum_dur_emitByte (b : Byte) : ((emitByte b).map Pulse.dur).sum = 5920 + 600 * onesOfByte b := by
  revert b; decide

/-- The 1 bits of a frame, section by section. -/
theorem onesOf_eq (F : Frame) : onesOf F =
    (idx8.map fun i => onesOfByte (section1 F)[i]).sum + (idx8.map fun i => onesOfByte (section2 F)[i]).sum := by
  have bytes : F.toList = idx8.map (fun i => (section1 F)[i]) ++ idx8.map fun i => (section2 F)[i] := by
    conv_lhs => rw [← joinSections_sections F]
    rfl
  rw [onesOf, bytes, List.map_append, List.sum_append, List.map_map, List.map_map]
  rfl

theorem sum_dur_section (B : Section8) :
    ((emitBits B).map Pulse.dur).sum = 47360 + 600 * (idx8.map fun i => onesOfByte B[i]).sum := by
  simp only [sum_dur_emitBits, sum_dur_emitByte, List.sum_map_add, List.sum_map_mul_left]
  rfl

/-- The airtime, added up over the five stretches of the train (R193). -/
theorem sum_dur_encodeTrain (F : Frame) : ((encodeTrain F).map Pulse.dur).sum = 174000 + 600 * onesOf F := by
  simp only [encodeTrain_eq, List.map_append, List.sum_append, sum_dur_section, onesOf_eq, gapPulses, endPulses,
    List.map_cons, List.map_nil, List.sum_cons, List.sum_nil]
  omega

theorem onesOf_le (F : Frame) : onesOf F ≤ 128 := by
  have le (B : Section8) : (idx8.map fun i => onesOfByte B[i]).sum ≤ 64 :=
    List.sum_le_card_nsmul _ 8 (by simp only [List.forall_mem_map]; exact fun i _ => onesOfByte_le _)
  rw [onesOf_eq]
  exact Nat.add_le_add (le _) (le _)

/-- Settles O42: the durations of the one train that ENCODE completes with. -/
theorem trainAirtime : Obligations.TrainAirtime := by
  intro s p c h
  obtain rfl := eq_of_completes_encode h
  exact ⟨sum_dur_encodeTrain _, onesOf_le _⟩

end Sys2Proof.Machine
end

section
/-!
PROOFS. EXPECT_SPACE (42_pulse_codec.md R195), and DECODE on encoded, altered and short captures (§4 and
70_reset_and_hazards.md §3): each is the frame that the capture carries, or its first mismatch with the grammar (R199).
-/

namespace Sys2Proof.Machine

/-! ## EXPECT_SPACE -/

theorem checksTo_expectSpace {s : State} {m : Bool} {k : Nat}
    (h : checkSpace (tolMatch s.tol) s.inp.ptIn s.inp.cur s.inp.spaceDur = (m, k)) : ChecksTo .expectSpace s m k :=
  checksTo_of_exec ((exec_expectSpace s).trans (by rw [h]))

theorem checkSpace_of_matches {tol : Tol} {pt : List Pulse} {cur d : Nat} (h : pulseMatches tol pt cur .space d = true) :
    checkSpace tol pt cur d = (true, cur + 1) := if_pos h

theorem checkSpace_of_not_matches {tol : Tol} {pt : List Pulse} {cur d : Nat}
    (h : pulseMatches tol pt cur .space d = false) : checkSpace tol pt cur d = (false, cur) := by
  simp [checkSpace, h]

/-- Settles O44: the check on a space that matches, on a pulse that does not, and past the end. -/
theorem expectSpaceChecks : Obligations.ExpectSpaceChecks := by
  refine ⟨rfl, fun s p hp level dur => ?_, fun s p hp bad => ?_, fun s past => ?_, rfl⟩
  · exact checksTo_expectSpace (checkSpace_of_matches (pulseMatches_iff.2 ⟨p, hp, level, dur⟩))
  · exact checksTo_expectSpace (checkSpace_of_not_matches
      (pulseMatches_eq_false hp (bad.imp_left fun level => by simp [level])))
  · exact checksTo_expectSpace (checkSpace_of_not_matches (pulseMatches_past _ _ past))

/-! ## DECODE of an encoded train -/

/-- DECODE completes on a train, on the port of any state whose tolerance has TL1 and TL2, with the train's frame. -/
theorem completes_decode_encodeTrain {s : State} {F : Frame} (tl1 : TL1 (tolMatch s.tol)) (tl2 : TL2 (tolMatch s.tol))
    (h : s.inp.ptIn = encodeTrain F) : Completes .decode s (.frame F) :=
  (completes_decode (h ▸ carriesFrame_encodeTrain tl1 tl2 F)).1

/-- Settles O50: ENCODE completes with its operand's train, which carries the operand. -/
theorem pulseRoundTrip : Obligations.PulseRoundTrip := by
  intro s p c tl1 tl2 h
  exact completes_decode_encodeTrain (s := s.withTrain p) tl1 tl2 (eq_of_completes_encode h)

/-! ## A train with another header in section 2 -/

/-- An emitted bit reads as a bit by TL1 alone, if only as one or the other (R197). -/
theorem exists_bitAt_of_emitBit {tol : Tol} {pt : List Pulse} {k : Nat} {b : Bool} (tl1 : TL1 tol)
    (hm : pt[k]? = (emitBit b)[0]?) (hs : pt[k + 1]? = (emitBit b)[1]?) : ∃ b', BitAt tol pt k b' := by
  rcases bitAt_or_noBitAt tol pt k with bit | ⟨notOne, notZero⟩
  · exact bit
  · cases b with
    | true => exact absurd (pairAt_of_pulses tl1 hm hs (by decide) (by decide)) notOne
    | false => exact absurd (pairAt_of_pulses tl1 hm hs (by decide) (by decide)) notZero

/-- A train matches the grammar up to section 2's header by TL1 alone. -/
theorem matchesBefore_header2 {tol : Tol} (tl1 : TL1 tol) (F : Frame) : MatchesBefore tol (encodeTrain F) 134 := by
  have gap (k : Nat) (hk : k < 6) := encodeTrain_getElem?_gap F hk
  have bits (i j : Fin 8) : ∃ b, BitAt tol (encodeTrain F) (2 + 2 * bitNo i j) b := by
    have pulse : ∀ k < 2, (encodeTrain F)[2 + 2 * bitNo i j + k]? = (emitBit ((section1 F)[i].getLsbD j))[k]? := by
      intro k hk
      rw [Nat.add_assoc, encodeTrain_getElem?_section1 F (by unfold bitNo; omega), emitBits_getElem? _ _ _ hk]
    exact exists_bitAt_of_emitBit tl1 (pulse 0 (by decide)) (pulse 1 (by decide))
  have header1 : MatchesBefore tol (encodeTrain F) 2 :=
    (matchesBefore_zero tol _).add_two (d := ⟨0, 0, 0⟩) (isCheck_start (by decide))
      (pairAt_of_pulses tl1 rfl rfl (by decide) (by decide))
  have data1 : MatchesBefore tol (encodeTrain F) 130 :=
    header1.add_bits (e := 1) (.inl ⟨rfl, rfl⟩) (le_refl 64) fun i j _ => bits i j
  have footer1 : MatchesBefore tol (encodeTrain F) 132 :=
    MatchesBefore.add_two (d := ⟨2, 0, 0⟩) data1 (isCheck_start (by decide))
      (pairAt_of_pulses tl1 (gap 0 (by decide)) (gap 1 (by decide)) (by decide) (by decide))
  exact MatchesBefore.add_two (d := ⟨3, 0, 0⟩) footer1 (isCheck_start (by decide))
    (pairAt_of_pulses tl1 (gap 2 (by decide)) (gap 3 (by decide)) (by decide) (by decide))

/-- Captures that agree before pulse `k` match alike before it; checks begin at even pulses. -/
theorem MatchesBefore.congr {tol : Tol} {pt pt' : List Pulse} {k : Nat} (even : k % 2 = 0)
    (same : pt'.take k = pt.take k) (h : MatchesBefore tol pt k) : MatchesBefore tol pt' k := fun d hd lt => by
  have whole : min (posCur d + 2) 267 ≤ k := by have := hd.posCur_even; omega
  rw [← matchesAt_take hd whole, same, matchesAt_take hd whole]
  exact h d hd lt

/-- The train with section 1's timing in the header of section 2. -/
def wrongHeader2 (F : Frame) : List Pulse := ((encodeTrain F).set 134 ⟨.mark, 4600⟩).set 135 ⟨.space, 2600⟩

/-- Section 1's header does not match section 2's, by TL3 (R9). -/
theorem not_pairAt_wrongHeader2 {tol : Tol} (tl3 : TL3 tol) (F : Frame) : ¬ PairAt tol (wrongHeader2 F) 134 9300 5000 := by
  have mark : (wrongHeader2 F)[134]? = some ⟨.mark, 4600⟩ := by simp [wrongHeader2]
  have space : (wrongHeader2 F)[134 + 1]? = some ⟨.space, 2600⟩ := by simp [wrongHeader2]
  rcases tl3 with tl3 | tl3
  · exact not_pairAt_of_mark (pulseMatches_eq_false mark (.inr tl3))
  · exact not_pairAt_of_space (pulseMatches_eq_false space (.inr tl3))

theorem firstMismatch_wrongHeader2 {tol : Tol} (tl1 : TL1 tol) (tl3 : TL3 tol) (F : Frame) :
    FirstMismatch tol (wrongHeader2 F) ⟨4, 0, 0⟩ := by
  refine ⟨isCheck_start (by decide), not_pairAt_wrongHeader2 tl3 F, ?_⟩
  refine MatchesBefore.congr (k := 134) (by decide) ?_ (matchesBefore_header2 tl1 F)
  rw [wrongHeader2, List.take_set_of_le (by decide), List.take_set_of_le (by decide)]

/-- Settles O51: the altered header is the first mismatch. -/
theorem headerTwoRejected : Obligations.HeaderTwoRejected := by
  intro s p c tl1 tl3 h
  obtain rfl := eq_of_completes_encode h
  exact rejects_decode (s := s.withTrain (wrongHeader2 s.inp.frame)) (firstMismatch_wrongHeader2 tl1 tl3 _)

/-! ## A capture shorter than a train -/

/-- A check that fails stands at or behind the first mismatch. -/
theorem exists_firstMismatch_le {tol : Tol} {pt : List Pulse} {d : Dpc} (hd : IsCheck d) (fails : ¬ MatchesAt tol pt d) :
    ∃ d', FirstMismatch tol pt d' ∧ posCur d' ≤ posCur d := by
  rcases answersGrammar_decodeTrain tol pt with ⟨F, carries, -⟩ | ⟨d', mismatch, -⟩
  · exact absurd (carries.1 d hd) fails
  · obtain ⟨hd', fails', before⟩ := mismatch
    exact ⟨d', ⟨hd', fails', before⟩, not_lt.1 fun lt => fails (before d hd lt)⟩

/-- Settles O52: the final mark fails in a capture of under 267 pulses, and section 1's footer in one of at most 131. -/
theorem shortCaptureRejected : Obligations.ShortCaptureRejected := by
  refine ⟨fun s short => ?_, fun s short => ?_⟩
  · have noMark : ¬ MatchesAt (tolMatch s.tol) s.inp.ptIn ⟨7, 0, 0⟩ :=
      Bool.eq_false_iff.1 (pulseMatches_past _ _ (Nat.le_of_lt_succ short))
    obtain ⟨d, mismatch, -⟩ := exists_firstMismatch_le (isCheck_start (by decide)) noMark
    exact ⟨d, _, rejects_decode mismatch⟩
  · have noFooter : ¬ MatchesAt (tolMatch s.tol) s.inp.ptIn ⟨2, 0, 0⟩ :=
      not_pairAt_of_space (pulseMatches_past _ _ short)
    obtain ⟨d, mismatch, le⟩ := exists_firstMismatch_le (isCheck_start (by decide)) noFooter
    refine ⟨d, _, rejects_decode mismatch, ?_⟩
    have place := mismatch.1.place
    have le : posCur d ≤ 130 := le
    omega

end Sys2Proof.Machine
end

section
/-!
PROOFS. The caller's programs TX and RX (30_encoding.md R109, log entry 16). A line whose operands are bound runs its
operation and binds its results, or ends the program with the operation's reject; TX and RX are two such lines each, and
the codec's two round trips give what they bind.
-/

namespace Sys2Proof.Machine

/-! ## One line of a program -/

/-- The operands that a line's sources name, put on the ports of the caller's codec (R109). -/
def Caller.operands (c : Caller) (i : Instr) (srcs : List Src) : Option Inputs :=
  (srcs.mapM c.value).bind fun vs => bindOperands i vs c.codec.inp

/-- An unguarded line whose operands are bound issues its operation (R109). -/
theorem runLine_of_operands {c : Caller} {i : Instr} {srcs : List Src} {x : Inputs} (h : c.operands i srcs = some x)
    (dsts : List Nat) :
    runLine c ⟨dsts, encode i, srcs, false⟩ = c.after dsts (stepped (c.codec.issue i x)) := by
  obtain ⟨vs, values, bound⟩ := Option.bind_eq_some_iff.1 h
  simp [runLine, values, bound]

theorem stepped_issue {s t : State} {i : Instr} {x : Inputs} (h : exec i (s.issue i x) = .next t) :
    stepped (s.issue i x) = t := by
  rw [stepped, step_of_encode rfl, h]

/-- A line whose operation rejects ends the program with that reject, and binds nothing. -/
theorem runProgram_of_rejects {c : Caller} {i : Instr} {srcs : List Src} {x : Inputs} {e : Reject}
    (h : c.operands i srcs = some x) (rejects : Rejects i (c.codec.issue i x) e) (dsts : List Nat) (rest : List Line) :
    ∃ t, runProgram c (⟨dsts, encode i, srcs, false⟩ :: rest) = .ended { c with codec := t } ∧ t.status = .reject e ∧
      t.publish = false ∧ t.faulted = c.codec.faulted := by
  obtain ⟨t, ends, status, -, publish, faulted⟩ := rejects
  refine ⟨t, ?_, status, publish, faulted⟩
  rw [runProgram, runLine_of_operands h, stepped_issue ends, Caller.after, if_neg (by simp [status])]

/-- A line whose operation completes binds the results, and the program goes on with the rest. -/
theorem runProgram_of_completes {c : Caller} {i : Instr} {srcs : List Src} {x : Inputs} {r : Result}
    (h : c.operands i srcs = some x) (completes : Completes i (c.codec.issue i x) r) (dsts : List Nat)
    (rest : List Line) :
    ∃ t, runProgram c (⟨dsts, encode i, srcs, false⟩ :: rest) =
        runProgram ⟨t, dsts.zip (resultVals r) ++ c.held⟩ rest ∧
      exec i (c.codec.issue i x) = .next t ∧ t.status = .ok ∧ t.faulted = c.codec.faulted ∧ t.tol = c.codec.tol := by
  obtain ⟨t, ends, ok, rfl, faulted⟩ := completes
  obtain ⟨g, -, rfl⟩ := exists_ending_of_exec ends
  obtain ⟨-, -, tol⟩ := g.sameInputs_after (c.codec.issue i x)
  refine ⟨_, ?_, ends, ok, faulted, tol⟩
  rw [runProgram, runLine_of_operands h, stepped_issue ends, Caller.after, if_pos ok]

/-! ## RX of a capture that DECODE rejects -/

/-- A reject rests on the caller's ports and tolerance alone. -/
theorem Rejects.congr {i : Instr} {s s' : State} {e : Reject} (h : Rejects i s e) (inp : s'.inp = s.inp)
    (tol : s'.tol = s.tol) : Rejects i s' e := by
  obtain ⟨t, ends, rejected, -⟩ := h
  obtain ⟨t', ends', status⟩ := exec_status i s'
  rw [inp, tol, ← status_of_exec ends, rejected] at status
  obtain ⟨result, publish, faulted, -⟩ := exec_reject_leaves ends' status
  exact ⟨t', ends', status, result, publish, faulted⟩

/-- Settles O54: the first line of RX is issued with the capture on its port, and its reject ends the program. -/
theorem receiveStopsAtReject : Obligations.ReceiveStopsAtReject := by
  intro c r g p e rejects
  have issued : Rejects .decode (c.codec.issue .decode { c.codec.inp with ptIn := p }) e := rejects.congr rfl rfl
  have operands : c.operands .decode [.lit (.pulses p)] = some { c.codec.inp with ptIn := p } := rfl
  obtain ⟨t, run, status, publish, faulted⟩ := runProgram_of_rejects operands issued [g] _
  exact ⟨_, run, status, rfl, publish, faulted⟩

/-! ## TX, then RX -/

/-- The newest binding of a name is its value. -/
theorem Caller.value_newest (t : State) (n : Nat) (v : Val) (held : List (Nat × Val)) :
    Caller.value ⟨t, (n, v) :: held⟩ (.name n) = some v := by
  simp [Caller.value]

/-- A line's one operand, held under a name. -/
theorem Caller.operands_name {c : Caller} {n : Nat} {v : Val} (h : c.value (.name n) = some v) (i : Instr) :
    c.operands i [.name n] = bindOperands i [v] c.codec.inp := by
  simp [Caller.operands, h]

/-- TX leaves the train of the built frame under its name. -/
theorem runProgram_txLines {c : Caller} {m : BitVec 3} {fan : BitVec 2} {q : TempPort} {ps : BitVec 2} {st : Thermo}
    (thermo : thermoOf { c.codec.inp with mode := m, fan := fan, targetC := q, preset := ps } = some st) (tm : TimePort)
    (p f : Nat) (rest : List Line) :
    ∃ c', runProgram c (txLines p f (.lit (.thermo m fan q ps)) (.lit (.time tm)) ++ rest) = runProgram c' rest ∧
      c'.value (.name p) = some (.pulses (encodeTrain (builtFrame st (timeOf tm)))) ∧
      c'.codec.faulted = c.codec.faulted ∧ c'.codec.tol = c.codec.tol := by
  have operands : c.operands .build [.lit (.thermo m fan q ps), .lit (.time tm)] =
      some { c.codec.inp with mode := m, fan := fan, targetC := q, preset := ps, time := tm } := rfl
  have built : Completes .build
      (c.codec.issue .build { c.codec.inp with mode := m, fan := fan, targetC := q, preset := ps, time := tm })
      (.frame (builtFrame st (timeOf tm))) := completes_build_iff.2 ⟨st, thermo, rfl⟩
  generalize builtFrame st (timeOf tm) = F at built ⊢
  obtain ⟨t1, run1, -, -, faulted1, tol1⟩ := runProgram_of_completes operands built [f]
    (⟨[p], encode .encode, [.name f], false⟩ :: rest)
  have frame := Caller.operands_name (Caller.value_newest t1 f (.frame F) c.held) .encode
  obtain ⟨t2, run2, -, -, faulted2, tol2⟩ := runProgram_of_completes frame (completes_encode _) [p] rest
  exact ⟨_, run1.trans run2, Caller.value_newest _ _ _ _, faulted2.trans faulted1, tol2.trans tol1⟩

/-- RX of a built frame's train binds the decoded state, published. -/
theorem runProgram_rxLines {c : Caller} {n : Nat} {st : Thermo} {tm : Option Clock} (tl1 : TL1 (tolMatch c.codec.tol))
    (tl2 : TL2 (tolMatch c.codec.tol)) (hq : 0 < st.targetC.den)
    (train : c.value (.name n) = some (.pulses (encodeTrain (builtFrame st tm)))) (r g : Nat) :
    ∃ c', runProgram c (rxLines r g (.name n)) = .going c' ∧ c'.value (.name r) = some (.decoded (decodedOf st)) ∧
      c'.codec.status = .ok ∧ c'.codec.publish = true ∧ c'.codec.faulted = c.codec.faulted := by
  obtain ⟨F, frame⟩ : ∃ F, F = builtFrame st tm := ⟨_, rfl⟩
  rw [← frame] at train
  have capture := Caller.operands_name train .decode
  obtain ⟨t1, run1, -, -, faulted1, -⟩ := runProgram_of_completes capture
    (completes_decode_encodeTrain tl1 tl2 rfl) [g] [⟨[r], encode .parse, [.name g], false⟩]
  have operand := Caller.operands_name (Caller.value_newest t1 g (.frame F) c.held) .parse
  obtain ⟨t2, run2, ends, ok, faulted2, -⟩ := runProgram_of_completes operand
    (completes_parse_builtFrame hq frame) [r] []
  have publish := (publishExactlyOnParse _ _ ((step_of_encode rfl).trans ends)).2 ⟨decode_encode _, ok⟩
  exact ⟨_, run1.trans run2, Caller.value_newest _ _ _ _, ok, publish, faulted2.trans faulted1⟩

/-- Settles O53: TX, then RX of what TX holds, the tolerance and FAULTED being those of the start. -/
theorem transmitThenReceive : Obligations.TransmitThenReceive := by
  intro c p f r g m fan q ps tm st tl1 tl2 thermo
  obtain ⟨c1, tx, train, faulted1, tol⟩ := runProgram_txLines thermo tm p f (rxLines r g (.name p))
  obtain ⟨c2, rx, decoded, ok, publish, faulted2⟩ :=
    runProgram_rxLines (tol ▸ tl1) (tol ▸ tl2) (thermoOf_den_pos thermo) train r g
  exact ⟨c2, tx.trans rx, decoded, ok, publish, faulted2.trans faulted1⟩

end Sys2Proof.Machine
end
